-- ==== Sys2Proof/Word.lean ====
section
/-! DEFINITION. The word types: a 16-bit command word, the 8-bit sums, and the spec's BitSequence. -/

namespace Sys2Proof

/-- A command word, the 16 bits of `cmd[15:0]` (30_encoding.md R40, R41). -/
abbrev Word := BitVec 16

/-- The width of `SUM1`, `SUM2` and `status` (10_state.md R10, R11, R20). -/
abbrev Byte := BitVec 8

/-- A BitSequence: a finite list of symbols, the FIRST symbol first (00_scope.md section 6).
`true` is the symbol 1 and `false` the symbol 0. -/
abbrev BitSeq := List Bool

end Sys2Proof
end

