-- ==== Sys2Proof/Syntax.lean ====
section
/-! DEFINITION. The five commands: one constructor per row of spec/opcode_table.json. -/

namespace Sys2Proof

/-- A command (30_encoding.md R46; there are no others, R48 and 60_exceptions.md R116). -/
inductive Instr where
  /-- `SETW n`, the width in bits as an unsigned integer (R44, R55). -/
  | setw (n : Nat)
  /-- `STARTC` (R67). -/
  | startc
  /-- `STARTV` (R70). -/
  | startv
  /-- `BIT b`, `true` for the symbol 1; no other symbol can be expressed (R45, R71). -/
  | bit (b : Bool)
  /-- `FIN` (R84). -/
  | fin
  deriving DecidableEq, Repr

end Sys2Proof
end

