-- ==== Sys2Proof/WellFormed.lean ====
section
/-! DEFINITION. Which instructions have an encoding. -/

namespace Sys2Proof

/-- An instruction is well formed when its operands fit their fields: the operand of `SETW` is
`0..4095` (30_encoding.md R44). The symbol of `BIT` is one bit by its type (R45). A width that is
zero, odd or above WMAX is a WELL-FORMED operand (R50): its effect is the engine's to define. -/
def Instr.wellFormed : Instr → Bool
  | .setw n => decide (n ≤ 4095)
  | .startc => true
  | .startv => true
  | .bit _ => true
  | .fin => true

/-- The check as a proposition. -/
abbrev WellFormed (i : Instr) : Prop := i.wellFormed = true

end Sys2Proof
end

