-- ==== Sys2Proof/Decode.lean ====
section
/-! DEFINITION. Decoding a command word, total and rejecting by name, and the encoder. -/

namespace Sys2Proof

/-- A row of the opcode map: a word matches it when `(cmd & mask) == bits` (30_encoding.md R46). -/
structure Row where
  bits : Word
  mask : Word
  deriving DecidableEq, Repr

/-- The test of R46. -/
def Row.matchesWord (r : Row) (w : Word) : Bool := w &&& r.mask == r.bits

def rowSetw : Row := { bits := 0x1000#16, mask := 0xF000#16 }
def rowStartc : Row := { bits := 0x2000#16, mask := 0xFFFF#16 }
def rowStartv : Row := { bits := 0x2001#16, mask := 0xFFFF#16 }
def rowBit : Row := { bits := 0x3000#16, mask := 0xFFFE#16 }
def rowFin : Row := { bits := 0x4000#16, mask := 0xFFFF#16 }

/-- The five rows with a mnemonic (R46). -/
def rows : List Row := [rowSetw, rowStartc, rowStartv, rowBit, rowFin]

/-- `op = cmd[15:12]` (R42). -/
def opField (w : Word) : BitVec 4 := w.extractLsb' 12 4

/-- `arg = cmd[11:0]` (R42). -/
def argField (w : Word) : BitVec 12 := w.extractLsb' 0 12

/-- The two ways a word can be ill-formed (R47). -/
inductive IllFormed where
  /-- `op` is 0x0 or 0x5 to 0xF. -/
  | unknownOpcode
  /-- `op` is 0x2, 0x3 or 0x4 and a reserved bit is set (R49). -/
  | reservedBitSet
  deriving DecidableEq, Repr

/-- What a word decodes to: a command, or ILL with its reason (R54). -/
inductive Decoded where
  | command (i : Instr)
  | illFormed (why : IllFormed)
  deriving DecidableEq, Repr

/-- Why a word that matches no row is ill-formed (R47). -/
def whyIllFormed (w : Word) : IllFormed :=
  if opField w = 2#4 ∨ opField w = 3#4 ∨ opField w = 4#4 then .reservedBitSet else .unknownOpcode

/-- Decoding: total, a function of the word alone (R54). -/
def decode (w : Word) : Decoded :=
  if rowSetw.matchesWord w then .command (.setw (argField w).toNat)
  else if rowStartc.matchesWord w then .command .startc
  else if rowStartv.matchesWord w then .command .startv
  else if rowBit.matchesWord w then .command (.bit (w.getLsbD 0))
  else if rowFin.matchesWord w then .command .fin
  else .illFormed (whyIllFormed w)

/-- The word of an instruction (R53); meaningful for a well-formed one. -/
def encode : Instr → Word
  | .setw n => 0x1000#16 ||| BitVec.ofNat 16 n
  | .startc => 0x2000#16
  | .startv => 0x2001#16
  | .bit b => 0x3000#16 ||| (BitVec.ofBool b).setWidth 16
  | .fin => 0x4000#16

/-- The command port's 16 bits of a table word: `nbits` bits, those above being zero. Every command is
one 16-bit word (R40), so there is no order of words or bytes to choose (20_memory.md section 2). -/
def portWord (nbits w : Nat) : Word := BitVec.ofNat 16 (w % 2 ^ nbits)

/-- The instruction the decoder reads from a table word; `none` where it refuses, and for a row of
more than 16 bits, which this hardware does not have (R40). -/
def decodeTableWord (nbits w : Nat) : Option Instr :=
  if nbits ≤ 16 then
    match decode (portWord nbits w) with
    | .command i => some i
    | .illFormed _ => none
  else none

end Sys2Proof
end

