-- ==== Sys2Proof/Config.lean ====
section
/-! DEFINITION. What is fixed for an instance and is not state: the parameter WMAX and the constants. -/

namespace Sys2Proof

/-- The choice of WMAX among its 2040 legal values. It has NO BODY: 00_scope.md R6 leaves WMAX open,
so nothing can be proved of the model that does not hold for every legal value (DESIGN CHOICE, safe,
log 1). -/
opaque Config.wmaxIndex : Fin 2040

/-- WMAX (00_scope.md R6): the largest width the instance supports, even, `16 <= WMAX <= 4094`. -/
def Config.wmax : Nat := 2 * Config.wmaxIndex.val + 16

/-- The modulus M of both sums, 255 whatever the width (00_scope.md R4). -/
abbrev Config.modulus : Nat := 255

/-- The reset value of `WIDTH` (10_state.md R14). -/
abbrev Config.resetWidth : BitVec 12 := 16#12

end Sys2Proof
end

