-- ==== Sys2Proof/Machine/State.lean ====
section
/-! DEFINITION. The state of the engine, its value after reset, and the reasons a step can stop. -/

namespace Sys2Proof.Machine

/-- The values of `PHASE` (10_state.md R15). -/
inductive Phase where
  | idle
  | run
  | done
  | fault
  deriving DecidableEq, Repr

/-- The values of `MODE` (10_state.md R16). -/
inductive Mode where
  | compute
  | verify
  deriving DecidableEq, Repr

/-- The fault codes 1, 2, 3 of `CAUSE` (10_state.md R19, 60_exceptions.md R101 to R103). -/
inductive FaultCode where
  | illegalCmd
  | seqErr
  | operandErr
  deriving DecidableEq, Repr

/-- An act of the host that changes the engine: a command word accepted on the port (30_encoding.md
R41), or a reset, taken as one atomic act (70_reset_and_hazards.md R120; DESIGN CHOICE, safe, log
7). Reading a port is no event: it changes nothing (10_state.md R27). -/
inductive HostEvent where
  | command (w : Word)
  | reset
  deriving DecidableEq, Repr

/-- The state of one engine (DESIGN CHOICE, safe, log 12): the twelve registers of 10_state.md R28,
and the host's acts still to come.

`tail`, `cnt`, `computed` and `claimed` are the registers of WMAX bits (and of ceil(log2(WMAX+1)) bits),
held as natural numbers; that they fit is part of `State.Inv` (DESIGN CHOICE, log 6). -/
structure State where
  /-- `WIDTH` (R14). -/
  width : BitVec 12
  /-- `MODE` (R16). -/
  mode : Mode
  /-- `PHASE` (R15). -/
  phase : Phase
  /-- `SUM1` (R10). -/
  sum1 : Byte
  /-- `SUM2` (R11). -/
  sum2 : Byte
  /-- `TAIL`, the tail window, the newest bit at bit 0 (R21). -/
  tail : Nat
  /-- `CNT`, the message bits received, saturating at `WIDTH` (R22). -/
  cnt : Nat
  /-- `COMPUTED` (R23). -/
  computed : Nat
  /-- `CLAIMED` (R23). -/
  claimed : Nat
  /-- `VALID` (R17). -/
  valid : Bool
  /-- `WERR` (R18). -/
  werr : Bool
  /-- `CAUSE` (R19): `none` is code 0 NONE. -/
  cause : Option FaultCode
  /-- THE MODEL'S OWN FIELD: the host's acts still to come, first to happen first. R25: the sequence of
  commands is an input of the step relation and no state of the engine (DESIGN CHOICE, log 2). -/
  input : List HostEvent
  deriving DecidableEq, Repr

/-- The state after reset: every value is that of 10_state.md R28 (70_reset_and_hazards.md R120). No
act of the host is to come (DESIGN CHOICE, log 2). -/
def State.reset : State where
  width := Config.resetWidth
  mode := .compute
  phase := .idle
  sum1 := 0#8
  sum2 := 0#8
  tail := 0
  cnt := 0
  computed := 0
  claimed := 0
  valid := false
  werr := false
  cause := none
  input := []

/-- The reasons a step stops with a fault of the MODEL: there are none. What the spec calls a fault is
the defined state `PHASE = FAULT` and so a next state (60_exceptions.md R109); there is no stuck state
and no hang (92_eei_decisions.md, notes for the modeller; log 9). -/
inductive Fault where
  deriving DecidableEq, Repr

/-- The reasons a step gives no next state. -/
inductive Refusal where
  /-- Raised by `exec` for an instruction that has no meaning yet; safe. No arm raises it now. -/
  | notModelled (mnemonic : String)
  /-- Raised by `execSetw` for a width of zero or an odd width at most WMAX in phase IDLE or DONE, and by
  `accept` for any command in a state whose WIDTH is zero or odd: the behaviour is UNSPECIFIED until
  reset and a model refuses (40_width_config.md R57, 93_implementation_defined.md U1; logs 4 and 5);
  safe. -/
  | widthUnspecified
  deriving DecidableEq, Repr

end Sys2Proof.Machine
end

