-- ==== Sys2Proof/Machine/Ops.lean ====
section
/-! DEFINITION. The pure functions of the two sub-blocks and the named operations on the registers. -/

namespace Sys2Proof.Machine

/-! ### two_sum_accumulator -/

/-- `acc_init` (41_two_sum_accumulator.md R61). -/
def accInit : Nat × Nat := (0, 0)

/-- `acc_step` (R62): the second sum adds the NEW first sum. -/
def accStep (s1 s2 : Nat) (b : Bool) : Nat × Nat :=
  let s1' := (s1 + b.toNat) % Config.modulus
  (s1', (s2 + s1') % Config.modulus)

/-- `acc_run` (R63): one step per symbol, the first symbol first. -/
def accRun (s1 s2 : Nat) : BitSeq → Nat × Nat
  | [] => (s1, s2)
  | b :: p => accRun (accStep s1 s2 b).1 (accStep s1 s2 b).2 p

/-- The adder of R64: at most one subtraction for each reduction. -/
def accStepAdder (s1 s2 : Nat) (b : Bool) : Nat × Nat :=
  let t1 := s1 + b.toNat
  let s1' := if t1 = 255 then 0 else t1
  let t2 := s2 + s1'
  (s1', if 255 ≤ t2 then t2 - 255 else t2)

/-! ### modular_sum_pack -/

/-- `pack` (42_modular_sum_pack.md R75): shift and OR on unbounded integers, then the mask. The spec
defines it for an even `w >= 2` only (40_width_config.md R57). -/
def pack (s1 s2 w : Nat) : Nat := ((s2 <<< (w / 2)) ||| s1) &&& (2 ^ w - 1)

/-- `render` (R78): the symbol at index k is bit `w-1-k`, the most significant bit first. -/
def render (x w : Nat) : BitSeq := (List.range w).map fun k => x.testBit (w - 1 - k)

/-- `value` (R78): the sequence read as a binary number, first symbol most significant. -/
def value : BitSeq → Nat
  | [] => 0
  | b :: s => b.toNat * 2 ^ s.length + value s

/-! ### Registers -/

/-- `WIDTH` as the integer `W` of the rules. -/
def State.w (s : State) : Nat := s.width.toNat

/-- `raise Fault(c)` (60_exceptions.md R109): writes CAUSE and PHASE and nothing else. -/
def State.raiseFault (c : FaultCode) (s : State) : State :=
  { s with cause := some c, phase := .fault }

/-- A word dropped in phase FAULT changes no register, not even CAUSE (60_exceptions.md R110). -/
def State.drop (s : State) : State := s

/-- The writes of a start command (41_two_sum_accumulator.md R67, R70): every register but WIDTH. It is
also the only way other than reset to leave phase FAULT (60_exceptions.md R111). -/
def State.openTransaction (m : Mode) (s : State) : State :=
  { s with
    mode := m
    sum1 := BitVec.ofNat 8 accInit.1
    sum2 := BitVec.ofNat 8 accInit.2
    tail := 0
    cnt := 0
    computed := 0
    claimed := 0
    valid := false
    werr := false
    cause := none
    phase := .run }

/-- `WIDTH <- n` (40_width_config.md R55, R58): nothing else changes, not even a bit above a smaller new
WIDTH (DEDUCED, unsafe, log 8). -/
def State.writeWidth (n : Nat) (s : State) : State := { s with width := BitVec.ofNat 12 n }

/-- `(SUM1, SUM2) <- acc_step(SUM1, SUM2, b)` (41_two_sum_accumulator.md R68, R69). -/
def State.feed (b : Bool) (s : State) : State :=
  { s with
    sum1 := BitVec.ofNat 8 (accStep s.sum1.toNat s.sum2.toNat b).1
    sum2 := BitVec.ofNat 8 (accStep s.sum1.toNat s.sum2.toNat b).2 }

/-- `TAIL <- ((TAIL << 1) | b) mod 2^W` (R69): the newest bit enters at bit 0. -/
def State.pushTail (b : Bool) (s : State) : State :=
  { s with tail := ((s.tail <<< 1) ||| b.toNat) % 2 ^ s.w }

/-- `CNT <- CNT + 1` (R69). -/
def State.countBit (s : State) : State := { s with cnt := s.cnt + 1 }

/-- `TAIL[W-1]`, the oldest bit in the window (R69). -/
def State.oldestBit (s : State) : Bool := s.tail.testBit (s.w - 1)

/-- The packed word of the current sums, the output of `modular_sum_pack` (42_modular_sum_pack.md R80). -/
def State.packedWord (s : State) : Nat := pack s.sum1.toNat s.sum2.toNat s.w

/-- The writes of `FIN` in mode COMPUTE (42_modular_sum_pack.md R81). -/
def State.deliverChecksum (s : State) : State :=
  { s with computed := s.packedWord, phase := .done }

/-- The writes of `FIN` in mode VERIFY on a long-enough message (R82); `ok` is the comparator's answer. -/
def State.deliverVerdict (ok : Bool) (s : State) : State :=
  { s with computed := s.packedWord, claimed := s.tail, valid := ok, phase := .done }

/-- The writes of `FIN` in mode VERIFY on a short message (R83): no pack, no comparison. -/
def State.deliverWidthError (s : State) : State := { s with werr := true, phase := .done }

end Sys2Proof.Machine
end

