-- ==== Sys2Proof/Machine/Flags.lean ====
section
/-! DEFINITION. The result flag VALID, the codes of the small registers, and the output ports. -/

namespace Sys2Proof.Machine

/-- The comparator of FIN (42_modular_sum_pack.md R82, R85): the packed word against `TAIL[WIDTH-1:0]`,
exact equality. -/
def State.comparator (s : State) : Bool := s.packedWord == s.tail % 2 ^ s.w

/-- The code of a phase (10_state.md R15). -/
def Phase.code : Phase → Nat
  | .idle => 0
  | .run => 1
  | .done => 2
  | .fault => 3

/-- The code of a mode (10_state.md R16). -/
def Mode.code : Mode → Nat
  | .compute => 0
  | .verify => 1

/-- The code of CAUSE (10_state.md R19); 0 is NONE. -/
def causeCode : Option FaultCode → Nat
  | none => 0
  | some .illegalCmd => 1
  | some .seqErr => 2
  | some .operandErr => 3

/-- The output `status[7:0]` (10_state.md R20); bit 7 reads 0. -/
def State.status (s : State) : Byte :=
  BitVec.ofNat 8 (s.phase.code ||| (s.mode.code <<< 2) ||| (s.valid.toNat <<< 3)
    ||| (s.werr.toNat <<< 4) ||| (causeCode s.cause <<< 5))

/-- The host-visible outputs (10_state.md R27): TAIL and CNT are on none of them (R24). -/
structure Outputs where
  status : Byte
  width : BitVec 12
  sum1 : Byte
  sum2 : Byte
  computed : BitVec Config.wmax
  claimed : BitVec Config.wmax
  deriving DecidableEq, Repr

/-- What the ports show between two commands (10_state.md R27); the values during a command are not
modelled (DESIGN CHOICE, safe, log 11). -/
def State.outputs (s : State) : Outputs where
  status := s.status
  width := s.width
  sum1 := s.sum1
  sum2 := s.sum2
  computed := BitVec.ofNat Config.wmax s.computed
  claimed := BitVec.ofNat Config.wmax s.claimed

end Sys2Proof.Machine
end

