-- ==== Sys2Proof/Machine/ModularSumPack.lean ====
section
/-! DEFINITION. The family of 42_modular_sum_pack.md: FIN. -/

namespace Sys2Proof.Machine

/-- `FIN` (R84 for the phases, R81 in mode COMPUTE, R82 and R83 in mode VERIFY). -/
def execFin (s : State) : Host.Outcome State Fault Refusal :=
  match s.phase with
  | .fault => .next s.drop
  | .idle | .done => .next (s.raiseFault .seqErr)
  | .run =>
    match s.mode with
    | .compute => .next s.deliverChecksum
    | .verify => .next (if s.cnt = s.w then s.deliverVerdict s.comparator else s.deliverWidthError)

end Sys2Proof.Machine
end

