-- ==== Sys2Proof/Machine/Operands.lean ====
section
/-! DEFINITION. The checks on an operand: the width of SETW, and whether WIDTH holds a defined value. -/

namespace Sys2Proof.Machine

/-- A width the spec gives no behaviour for: zero or odd (40_width_config.md R57). -/
def unspecifiedWidth (n : Nat) : Bool := n == 0 || n % 2 == 1

/-- What `SETW`'s operand is, in the order of the tests (40_width_config.md R55, 60_exceptions.md R108). -/
inductive WidthOperand where
  /-- `n > WMAX`: OPERAND_ERR, whatever its parity (R56). -/
  | tooLarge
  /-- zero or odd, at most WMAX: UNSPECIFIED (R57). -/
  | unspecified
  /-- even, `2 <= n <= WMAX`. -/
  | legal
  deriving DecidableEq, Repr

/-- The operand checks of `SETW n` in an instance whose largest width is `wmax`. -/
def classifyWidth (wmax n : Nat) : WidthOperand :=
  if wmax < n then .tooLarge
  else if unspecifiedWidth n then .unspecified
  else .legal

/-- Once WIDTH holds zero or an odd value the behaviour is UNSPECIFIED until reset (10_state.md R14,
40_width_config.md R57). -/
def State.widthDefined (s : State) : Bool := !unspecifiedWidth s.w

/-- Where the symbol of a `BIT` goes in mode VERIFY: true while the window is not yet full
(41_two_sum_accumulator.md R69, `CNT < W`). A CNT above WIDTH in phase RUN, which no run reaches, counts as
full (DEDUCED, safe, log 10). -/
def State.windowFilling (s : State) : Bool := decide (s.cnt < s.w)

end Sys2Proof.Machine
end

