-- ==== Sys2Proof/Machine/TwoSumAccumulator.lean ====
section
/-! DEFINITION. The family of 41_two_sum_accumulator.md: STARTC, STARTV, BIT. -/

namespace Sys2Proof.Machine

/-- `STARTC` (R67): in every phase, FAULT included. -/
def execStartc (s : State) : Host.Outcome State Fault Refusal := .next (s.openTransaction .compute)

/-- `STARTV` (R70): in every phase, FAULT included. -/
def execStartv (s : State) : Host.Outcome State Fault Refusal := .next (s.openTransaction .verify)

/-- `BIT b` in mode VERIFY (R69): into the window while it fills; once it is full, the bit it pushes out
goes to the accumulator. -/
def State.receiveMessageBit (b : Bool) (s : State) : State :=
  if s.windowFilling then (s.countBit).pushTail b else (s.feed s.oldestBit).pushTail b

/-- `BIT b` (R71 for the phases, R68 in mode COMPUTE, R69 in mode VERIFY). -/
def execBit (b : Bool) (s : State) : Host.Outcome State Fault Refusal :=
  match s.phase with
  | .fault => .next s.drop
  | .idle | .done => .next (s.raiseFault .seqErr)
  | .run =>
    match s.mode with
    | .compute => .next (s.feed b)
    | .verify => .next (s.receiveMessageBit b)

end Sys2Proof.Machine
end

