-- ==== Sys2Proof/Machine/WidthConfig.lean ====
section
/-! DEFINITION. The family of 40_width_config.md: SETW. -/

namespace Sys2Proof.Machine

/-- `SETW n` in an instance whose largest width is `wmax` (40_width_config.md R55 to R59). In phase FAULT
it is dropped whatever `n` (60_exceptions.md R110); in phase RUN it is out of sequence. -/
def setWidthAt (wmax n : Nat) (s : State) : Host.Outcome State Fault Refusal :=
  match s.phase with
  | .fault => .next s.drop
  | .run => .next (s.raiseFault .seqErr)
  | .idle | .done =>
    match classifyWidth wmax n with
    | .tooLarge => .next (s.raiseFault .operandErr)
    | .unspecified => .refused .widthUnspecified
    | .legal => .next (s.writeWidth n)

/-- `SETW n` (40_width_config.md R55). -/
def execSetw (n : Nat) (s : State) : Host.Outcome State Fault Refusal :=
  setWidthAt Config.wmax n s

end Sys2Proof.Machine
end

