-- ==== Sys2Proof/Machine/Dispatch.lean ====
section
/-! DEFINITION. The dispatch: one arm per command. -/

namespace Sys2Proof.Machine

def exec (i : Instr) (s : State) : Host.Outcome State Fault Refusal :=
  match i with
  | .setw n => Sys2Proof.Machine.execSetw n s
  | .startc => Sys2Proof.Machine.execStartc s
  | .startv => Sys2Proof.Machine.execStartv s
  | .bit b => Sys2Proof.Machine.execBit b s
  | .fin => Sys2Proof.Machine.execFin s

end Sys2Proof.Machine
end

