-- ==== Sys2Proof/Machine/Port.lean ====
section
/-! DEFINITION. The command port: what one accepted word does, and the reset input. -/

namespace Sys2Proof.Machine

/-- An ill-formed word (30_encoding.md R47, 60_exceptions.md R101): ILLEGAL_CMD in phase IDLE, RUN and
DONE, dropped in phase FAULT (R110). The word is not saved. -/
def State.receiveIllFormed (s : State) : State :=
  match s.phase with
  | .fault => s.drop
  | .idle | .run | .done => s.raiseFault .illegalCmd

/-- What the engine does with one accepted word (30_encoding.md R41, R54; the order of the tests is that
of 60_exceptions.md R108). In a state whose WIDTH is zero or odd, which no run reaches, the behaviour
is UNSPECIFIED until reset (40_width_config.md R57; DEDUCED, safe, log 5). -/
def State.accept (s : State) (w : Word) : Host.Outcome State Fault Refusal :=
  if s.widthDefined then
    match decode w with
    | .command i => exec i s
    | .illFormed _ => .next s.receiveIllFormed
  else .refused .widthUnspecified

/-- What one act of the host does. Reset is enabled in every state and leads to the reset state
(70_reset_and_hazards.md R120); the host's further acts are not the engine's and stay. -/
def State.react (s : State) : HostEvent → Host.Outcome State Fault Refusal
  | .command w => s.accept w
  | .reset => .next { State.reset with input := s.input }

end Sys2Proof.Machine
end

