-- ==== Sys2Proof/Machine/Step.lean ====
section
/-! DEFINITION. One step of the machine, and the placing of a word where the step takes its next one. -/

namespace Sys2Proof.Machine

/-- One step: the host's next act, taken from `input`, and the engine's response to it, complete
before the next (10_state.md R26, 20_memory.md R36). With no act to come the engine waits and no
register changes (R26, 70_reset_and_hazards.md R120; DESIGN CHOICE, safe, log 3). -/
def step (s : State) : Host.Outcome State Fault Refusal :=
  match s.input with
  | [] => .next s
  | e :: rest => State.react { s with input := rest } e

/-- `s` with the word as the host's very next act: the engine fetches nothing (10_state.md R13), so this
is how a word comes to be executed next (log 2). -/
def State.withFetchWord (s : State) (nbits w : Nat) : State :=
  { s with input := .command (portWord nbits w) :: s.input }

end Sys2Proof.Machine
end

