-- ==== Sys2Proof/Machine/Transactions.lean ====
section
/-! DEFINITION. The source's two functions, the command sequences that perform them, and how a host reads
a result. -/

namespace Sys2Proof.Machine

/-! ### The two functions -/

/-- `compute(p, w)` (43_transactions.md R90): a sequence of exactly `w` symbols. -/
def compute (p : BitSeq) (w : Nat) : BitSeq :=
  render (pack (accRun accInit.1 accInit.2 p).1 (accRun accInit.1 accInit.2 p).2 w) w

/-- The two cases of `verify` (43_transactions.md R91): in the error case there is no triple. -/
inductive VerifyResult where
  | widthError
  | ok (valid : Bool) (computed claimed : BitSeq)
  deriving DecidableEq, Repr

/-- `verify(m, w)` (43_transactions.md R91): an error exactly when `len(m) < w`. -/
def verify (m : BitSeq) (w : Nat) : VerifyResult :=
  if m.length < w then .widthError
  else
    let payload := m.take (m.length - w)
    let claimed := m.drop (m.length - w)
    let computed := compute payload w
    .ok (computed == claimed) computed claimed

/-! ### The command sequences -/

/-- `BITS "s"` (30_encoding.md R51): one BIT per symbol, the first symbol first. -/
def bitsCommands (p : BitSeq) : List Instr := p.map .bit

/-- `STARTC ; BITS "p" ; FIN` (30_encoding.md R52). -/
def computeTransaction (p : BitSeq) : List Instr := .startc :: (bitsCommands p ++ [.fin])

/-- `STARTV ; BITS "m" ; FIN` (30_encoding.md R52). -/
def verifyTransaction (m : BitSeq) : List Instr := .startv :: (bitsCommands m ++ [.fin])

/-- `COMPUTE "p", w` (30_encoding.md R52). -/
def computePseudo (p : BitSeq) (w : Nat) : List Instr := .setw w :: computeTransaction p

/-- `VERIFY "m", w` (30_encoding.md R52). -/
def verifyPseudo (m : BitSeq) (w : Nat) : List Instr := .setw w :: verifyTransaction m

/-- The acts of a host that sends these commands in order (30_encoding.md R53). -/
def present (cs : List Instr) : List HostEvent := cs.map fun i => .command (encode i)

/-- `k` steps of the machine, stopping at the first refusal: `Host.Core.run` of this machine
(`runFor_eq_core_run`). -/
def runFor : Nat → State → Host.Outcome State Fault Refusal
  | 0, s => .next s
  | k + 1, s =>
    match step s with
    | .next t => runFor k t
    | .fault r => .fault r
    | .refused r => .refused r

/-! ### The host's reading of a result -/

/-- A finished result as the host reads it: a checksum word, or the answer of `verify`. -/
inductive Reading where
  | checksum (word : BitSeq)
  | verdict (r : VerifyResult)
  deriving DecidableEq, Repr

/-- How the host reads the result registers (70_reset_and_hazards.md R127): only in phase DONE; COMPUTED
alone in mode COMPUTE; in mode VERIFY, WERR first. A word is rendered at the width in force, so the
reading is to be made before another SETW (R128). -/
def readResult (s : State) : Option Reading :=
  match s.phase with
  | .idle | .run | .fault => none
  | .done =>
    match s.mode with
    | .compute => some (.checksum (render s.computed s.w))
    | .verify =>
      if s.werr then some (.verdict .widthError)
      else some (.verdict (.ok s.valid (render s.computed s.w) (render s.claimed s.w)))

/-- The host's validation of a raw string (70_reset_and_hazards.md R126): admissible when every
character is '0' or '1'; the engine sees nothing of a string that is not. -/
def symbolsOfChars : List Char → Option BitSeq
  | [] => some []
  | c :: cs =>
    if c = '0' then (symbolsOfChars cs).map (false :: ·)
    else if c = '1' then (symbolsOfChars cs).map (true :: ·)
    else none

end Sys2Proof.Machine
end

