-- ==== Sys2Proof/Machine/Assembler.lean ====
section
/-! DEFINITION. The assembler lines of 30_encoding.md R50 to R53, over lists of characters. -/

namespace Sys2Proof.Machine

/-- The double quote that encloses a BitSequence. -/
def quoteChar : Char := Char.ofNat 34

/-- The line without its comment: text from `;` to the end (R50). -/
def withoutComment : List Char → List Char
  | [] => []
  | c :: cs => if c = ';' then [] else c :: withoutComment cs

/-- The pieces of a line between spaces, none empty (R50; DESIGN CHOICE, safe, log 13: any number of
spaces separates). -/
def pieces : List Char → List (List Char)
  | [] => []
  | c :: cs =>
    if c = ' ' then pieces cs
    else
      match cs with
      | [] => [[c]]
      | d :: _ =>
        if d = ' ' then [c] :: pieces cs
        else
          match pieces cs with
          | [] => [[c]]
          | p :: ps => (c :: p) :: ps

/-- The value of a digit in the given base, at most sixteen. -/
def digitValue (base : Nat) (c : Char) : Option Nat :=
  let n := c.toNat
  let v :=
    if 48 ≤ n ∧ n ≤ 57 then some (n - 48)
    else if 65 ≤ n ∧ n ≤ 70 then some (n - 55)
    else if 97 ≤ n ∧ n ≤ 102 then some (n - 87)
    else none
  v.filter (· < base)

/-- The digits read on from the value so far, most significant first. -/
def digitsFrom (base acc : Nat) : List Char → Option Nat
  | [] => some acc
  | c :: cs => (digitValue base c).bind fun d => digitsFrom base (acc * base + d) cs

/-- A decimal integer, or a hexadecimal one after `0x` (R50). -/
def numberOf : List Char → Option Nat
  | [] => none
  | '0' :: 'x' :: [] => none
  | '0' :: 'x' :: h :: hs => digitsFrom 16 0 (h :: hs)
  | c :: cs => digitsFrom 10 0 (c :: cs)

/-- The operand of SETW: `0..4095`, odd, zero and large values included (R50). -/
def widthOperandOf (cs : List Char) : Option Nat := (numberOf cs).filter (· ≤ 4095)

/-- A BitSequence in quotation marks, followed by nothing or by the text `after`. -/
def quotedSymbols (after : List Char) : List Char → Option BitSeq
  | [] => none
  | c :: cs =>
    if c = quoteChar ∧ (quoteChar :: after).isSuffixOf cs then
      symbolsOfChars (cs.take (cs.length - (quoteChar :: after).length))
    else none

/-- One line: the commands it stands for, none of them for a blank line or a comment; `none` where the
assembler rejects it (R50 to R52). -/
def assembleLine (line : List Char) : Option (List Instr) :=
  match pieces (withoutComment line) with
  | [] => some []
  | [m] =>
    if m = ['S', 'T', 'A', 'R', 'T', 'C'] then some [.startc]
    else if m = ['S', 'T', 'A', 'R', 'T', 'V'] then some [.startv]
    else if m = ['F', 'I', 'N'] then some [.fin]
    else none
  | [m, a] =>
    if m = ['S', 'E', 'T', 'W'] then (widthOperandOf a).map fun n => [.setw n]
    else if m = ['B', 'I', 'T'] then
      if a = ['0'] then some [.bit false] else if a = ['1'] then some [.bit true] else none
    else if m = ['B', 'I', 'T', 'S'] then (quotedSymbols [] a).map bitsCommands
    else none
  | [m, a, b] =>
    if m = ['C', 'O', 'M', 'P', 'U', 'T', 'E'] then
      (quotedSymbols [','] a).bind fun p => (widthOperandOf b).map fun w => computePseudo p w
    else if m = ['V', 'E', 'R', 'I', 'F', 'Y'] then
      (quotedSymbols [','] a).bind fun p => (widthOperandOf b).map fun w => verifyPseudo p w
    else none
  | _ :: _ :: _ :: _ :: _ => none

/-- The words of one line (R53). -/
def assembleWords (line : List Char) : Option (List Word) := (assembleLine line).map (·.map encode)

end Sys2Proof.Machine
end

