-- ==== Sys2Proof/Safety.lean ====
section
/-! DEFINITION. What the spec says of every reachable state, what the host must not send, and what a safe
run is. -/

namespace Sys2Proof.Machine

/-- The invariants the spec states of the registers; each clause names its rule. -/
structure State.Inv (s : State) : Prop where
  /-- WIDTH is even (10_state.md R14). -/
  width_even : s.w % 2 = 0
  /-- WIDTH is at least 2 (R14). -/
  width_min : 2 ≤ s.w
  /-- WIDTH is at most WMAX (R14). -/
  width_max : s.w ≤ Config.wmax
  /-- SUM1 is at most 254 (R12). -/
  sum1_lt : s.sum1.toNat < 255
  /-- SUM2 is at most 254 (R12). -/
  sum2_lt : s.sum2.toNat < 255
  /-- CAUSE is non-zero exactly in phase FAULT (R19). -/
  fault_iff : s.phase = .fault ↔ s.cause ≠ none
  /-- Before the first transaction everything but WIDTH is as after reset (R15, R28). -/
  idle_clear : s.phase = .idle → s.mode = .compute ∧ s.sum1 = 0#8 ∧ s.sum2 = 0#8
  /-- TAIL holds at most CNT bits (R21). -/
  tail_lt : s.tail < 2 ^ s.cnt
  /-- CNT fits its register (R22). -/
  cnt_max : s.cnt ≤ Config.wmax
  /-- CNT stops at WIDTH while a transaction is open (R22). -/
  cnt_run : s.phase = .run → s.cnt ≤ s.w
  /-- In mode COMPUTE the window is not used (41_two_sum_accumulator.md R73). -/
  compute_cnt : s.mode = .compute → s.cnt = 0
  /-- While the window fills nothing reaches the sums (R69, R83). -/
  filling_sums : s.phase = .run → s.mode = .verify → s.cnt < s.w → s.sum1 = 0#8 ∧ s.sum2 = 0#8
  /-- COMPUTED fits its register (R23). -/
  computed_lt : s.computed < 2 ^ Config.wmax
  /-- CLAIMED fits its register (R23). -/
  claimed_lt : s.claimed < 2 ^ Config.wmax
  /-- In phases IDLE and RUN the result registers read 0 (R17, 70_reset_and_hazards.md R127). -/
  open_results : s.phase = .idle ∨ s.phase = .run →
    s.computed = 0 ∧ s.claimed = 0 ∧ s.valid = false ∧ s.werr = false
  /-- In mode COMPUTE only COMPUTED is ever written (42_modular_sum_pack.md R81). -/
  compute_results : s.mode = .compute → s.claimed = 0 ∧ s.valid = false ∧ s.werr = false
  /-- A short message leaves no triple (R83). -/
  short_results : s.werr = true → s.computed = 0 ∧ s.claimed = 0 ∧ s.valid = false
  /-- VALID says that the two words are the same (R82). -/
  valid_words : s.valid = true → s.computed = s.claimed
  /-- A finished verify transaction with different words is not valid, and with equal words it is (R82,
  60_exceptions.md R106). -/
  verdict : s.phase = .done → s.mode = .verify → s.werr = false → s.computed = s.claimed → s.valid = true

/-- An entry of the phase table: the next phase, a fault with its code, a word dropped, or no successor
(UNSPECIFIED). -/
inductive PhaseEntry where
  | to (p : Phase)
  | faults (c : FaultCode)
  | dropped
  | unspecified
  deriving DecidableEq, Repr

/-- The complete transition table of 10_state.md R15, row by row, column by column; the column of a legal
SETW is split by R57. -/
def phaseTable : Phase → Decoded → PhaseEntry
  | .idle, .command (.setw n) =>
    if Config.wmax < n then .faults .operandErr
    else if unspecifiedWidth n then .unspecified else .to .idle
  | .run, .command (.setw _) => .faults .seqErr
  | .done, .command (.setw n) =>
    if Config.wmax < n then .faults .operandErr
    else if unspecifiedWidth n then .unspecified else .to .done
  | .fault, .command (.setw _) => .dropped
  | _, .command .startc => .to .run
  | _, .command .startv => .to .run
  | .idle, .command (.bit _) => .faults .seqErr
  | .run, .command (.bit _) => .to .run
  | .done, .command (.bit _) => .faults .seqErr
  | .fault, .command (.bit _) => .dropped
  | .idle, .command .fin => .faults .seqErr
  | .run, .command .fin => .to .done
  | .done, .command .fin => .faults .seqErr
  | .fault, .command .fin => .dropped
  | .fault, .illFormed _ => .dropped
  | _, .illFormed _ => .faults .illegalCmd

/-- A word the host may send in any phase: not a SETW of zero or of an odd value (70_reset_and_hazards.md
R125). -/
def dutifulWord (w : Word) : Bool :=
  match decode w with
  | .command (.setw n) => !unspecifiedWidth n
  | .command .startc => true
  | .command .startv => true
  | .command (.bit _) => true
  | .command .fin => true
  | .illFormed _ => true

/-- An act of the host that keeps R125; reset is always allowed (70_reset_and_hazards.md R120). -/
def dutifulEvent : HostEvent → Bool
  | .command w => dutifulWord w
  | .reset => true

/-- No fault is recorded: the natural safety predicate (92_eei_decisions.md, notes for the modeller). -/
def State.faultFree (s : State) : Bool := s.cause == none

/-- A run of `k` steps is safe when each of them answers a next state in which no fault is recorded. -/
def safeRun : Nat → State → Prop
  | 0, s => s.faultFree = true
  | k + 1, s => s.faultFree = true ∧ ∃ t, step s = .next t ∧ safeRun k t

end Sys2Proof.Machine
end

