-- ==== Sys2Proof/Certificates/Slice0/Obligations.lean ====
section
/-! DEFINITION. The statements for the provers, each from a rule of the spec. -/

open Sys2Proof Sys2Proof.Machine
open Host (Outcome)

/-! ### Encoding -/

/-- 30_encoding.md R53, R46: no bit of an encoding is dropped, for every operand the fields admit. -/
def Obligations.EncodedCommandDecodesToItself : Prop :=
  ∀ i : Instr, WellFormed i → decode (encode i) = .command i

/-- 30_encoding.md R46, R54: each well-formed word has one meaning and its own encoding. -/
def Obligations.DecodedWordIsItsCommandsEncoding : Prop :=
  ∀ (w : Word) (i : Instr), decode w = .command i → WellFormed i ∧ encode i = w

/-- 30_encoding.md R54: no word matches two rows, the row a word matches gives its command, and a word is
ILL exactly when it matches none. -/
def Obligations.DecodingFollowsTheOneMatchingRow : Prop :=
  ∀ w : Word,
    (rowSetw.matchesWord w = true → decode w = .command (.setw (argField w).toNat)) ∧
    (rowStartc.matchesWord w = true → decode w = .command .startc) ∧
    (rowStartv.matchesWord w = true → decode w = .command .startv) ∧
    (rowBit.matchesWord w = true → decode w = .command (.bit (w.getLsbD 0))) ∧
    (rowFin.matchesWord w = true → decode w = .command .fin) ∧
    rows.Pairwise (fun a b => ¬ (a.matchesWord w = true ∧ b.matchesWord w = true)) ∧
    ((∃ why, decode w = .illFormed why) ↔ ∀ r ∈ rows, r.matchesWord w = false)

/-- 30_encoding.md R47: which words are ill-formed, and what one does in each phase. -/
def Obligations.IllFormedWordsRaiseIllegalCmd : Prop :=
  (∀ w : Word, (∃ why, decode w = .illFormed why) ↔
    (opField w = 0#4 ∨ 5 ≤ (opField w).toNat) ∨
    ((opField w = 2#4 ∨ opField w = 3#4) ∧ w.extractLsb' 1 11 ≠ 0#11) ∨
    (opField w = 4#4 ∧ argField w ≠ 0#12)) ∧
  (∀ (s : State) (w : Word) (why : IllFormed), s.widthDefined = true → decode w = .illFormed why →
    (s.phase ≠ .fault → s.accept w = .next { s with cause := some .illegalCmd, phase := .fault }) ∧
    (s.phase = .fault → s.accept w = .next s)) ∧
  (∃ why, decode 0x0000#16 = .illFormed why) ∧ (∃ why, decode 0xFFFF#16 = .illFormed why)

/-- Words written out from the encodings of 30_encoding.md R42, R46: a sanity statement. -/
def Obligations.SpecWordsDecodeAsWritten : Prop :=
  decode 0b0001000000001000#16 = .command (.setw 8) ∧
  decode 0b0001111111111111#16 = .command (.setw 4095) ∧
  decode 0b0010000000000000#16 = .command .startc ∧
  decode 0b0010000000000001#16 = .command .startv ∧
  decode 0b0011000000000000#16 = .command (.bit false) ∧
  decode 0b0011000000000001#16 = .command (.bit true) ∧
  decode 0b0100000000000000#16 = .command .fin

/-- 30_encoding.md R51: `BITS "s"` stands for one BIT per symbol, leftmost first. -/
def Obligations.BitsLineExpandsToOneBitPerSymbol : Prop :=
  ∀ p : BitSeq,
    assembleLine (['B', 'I', 'T', 'S', ' ', quoteChar] ++ p.map (fun b => if b then '1' else '0')
      ++ [quoteChar]) = some (p.map .bit)

/-! ### The step -/

/-- 30_encoding.md R41, R54: a step takes the next word, moves past it, and executes the command it
decodes to; an ill-formed word goes the same way. -/
def Obligations.StepExecutesTheAcceptedCommand : Prop :=
  (∀ (s : State) (w : Word) (rest : List HostEvent) (i : Instr),
    s.input = .command w :: rest → s.widthDefined = true → decode w = .command i →
    step s = exec i { s with input := rest }) ∧
  ∀ (s : State) (w : Word) (rest : List HostEvent),
    s.input = .command w :: rest → step s = State.accept { s with input := rest } w

/-- The engine's state changes only by a command or by reset (10_state.md R26, 70_reset_and_hazards.md
R120): with no act of the host to come, a step changes nothing. That it is a step is the model's own
choice (log 3). -/
def Obligations.StepWithoutHostActChangesNothing : Prop :=
  ∀ s : State, s.input = [] → step s = .next s

/-- 70_reset_and_hazards.md R120: reset is enabled in every state, whatever its WIDTH holds, and leads to
the one reset state; the host's further acts stay (log 2). -/
def Obligations.ResetIsEnabledInEveryState : Prop :=
  ∀ (s : State) (rest : List HostEvent), s.input = .reset :: rest →
    step s = .next
      { width := 16#12, mode := .compute, phase := .idle, sum1 := 0#8, sum2 := 0#8, tail := 0, cnt := 0,
        computed := 0, claimed := 0, valid := false, werr := false, cause := none, input := rest }

/-- 10_state.md R28: the reset value of every register, and which a start command clears. -/
def Obligations.ResetAndStartValuesOfEveryRegister : Prop :=
  (State.reset.width = 16#12 ∧ State.reset.mode = .compute ∧ State.reset.phase = .idle ∧
    State.reset.sum1 = 0#8 ∧ State.reset.sum2 = 0#8 ∧ State.reset.tail = 0 ∧ State.reset.cnt = 0 ∧
    State.reset.computed = 0 ∧ State.reset.claimed = 0 ∧ State.reset.valid = false ∧
    State.reset.werr = false ∧ State.reset.cause = none) ∧
  ∀ (i : Instr) (m : Mode) (s : State), (i = .startc ∧ m = .compute) ∨ (i = .startv ∧ m = .verify) →
    ∃ t, exec i s = .next t ∧ t.width = s.width ∧ t.mode = m ∧ t.phase = .run ∧
      t.sum1 = 0#8 ∧ t.sum2 = 0#8 ∧ t.tail = 0 ∧ t.cnt = 0 ∧ t.computed = 0 ∧ t.claimed = 0 ∧
      t.valid = false ∧ t.werr = false ∧ t.cause = none

/-! ### The invariant -/

/-- The invariants of the spec hold at reset (10_state.md R28). -/
def Obligations.ResetStateMeetsTheInvariant : Prop := State.reset.Inv

/-- Every step keeps the invariants the spec states of reachable states (10_state.md R12, R14, R17, R19,
R21, R22, R23; 41_two_sum_accumulator.md R73), from every state that meets them and whatever the host does. -/
def Obligations.EveryStepKeepsTheInvariant : Prop :=
  ∀ s t : State, s.Inv → step s = .next t → t.Inv

/-- 70_reset_and_hazards.md R125, 93_implementation_defined.md U1: whatever a host that keeps R125 sends,
all of it is executed, and the state it leaves meets the invariant. -/
def Obligations.DutifulHostActsAreAllExecuted : Prop :=
  ∀ s : State, s.Inv → s.input.all dutifulEvent = true →
    ∃ t, runFor s.input.length s = .next t ∧ t.input = [] ∧ t.Inv

/-! ### Output ports -/

/-- 10_state.md R20: the fields of `status`, its formula, and its reset value. -/
def Obligations.StatusGathersTheSmallRegisters : Prop :=
  (∀ s : State,
    (s.status.extractLsb' 0 2).toNat = s.phase.code ∧
    (s.status.extractLsb' 2 1).toNat = s.mode.code ∧
    s.status.getLsbD 3 = s.valid ∧
    s.status.getLsbD 4 = s.werr ∧
    (s.status.extractLsb' 5 2).toNat = causeCode s.cause ∧
    s.status.getLsbD 7 = false ∧
    s.status.toNat = s.phase.code ||| (s.mode.code <<< 2) ||| (s.valid.toNat <<< 3)
      ||| (s.werr.toNat <<< 4) ||| (causeCode s.cause <<< 5)) ∧
  State.reset.status = 0x00#8

/-- 10_state.md R27: each port shows exactly the register of its name; R24: TAIL and CNT are on none. -/
def Obligations.OutputsShowTheRegistersAndHideTheWindow : Prop :=
  (∀ s : State, s.Inv →
    s.outputs.status = s.status ∧ s.outputs.width = s.width ∧ s.outputs.sum1 = s.sum1 ∧
    s.outputs.sum2 = s.sum2 ∧ s.outputs.computed.toNat = s.computed ∧
    s.outputs.claimed.toNat = s.claimed) ∧
  ∀ (s : State) (tail cnt : Nat), State.outputs { s with tail := tail, cnt := cnt } = s.outputs

/-! ### SETW -/

/-- 40_width_config.md R58: a SETW that writes WIDTH changes nothing else. -/
def Obligations.SetwWritesTheWidthAndNothingElse : Prop :=
  ∀ (n : Nat) (s : State), s.phase = .idle ∨ s.phase = .done → 2 ≤ n → n % 2 = 0 → n ≤ Config.wmax →
    ∃ t, exec (.setw n) s = .next t ∧ t.width.toNat = n ∧ t = { s with width := t.width }

/-- 40_width_config.md R56: a width above WMAX faults whatever its parity, and WIDTH keeps its value. -/
def Obligations.OversizeWidthRaisesOperandErr : Prop :=
  (∀ (n : Nat) (s : State), s.phase = .idle ∨ s.phase = .done → Config.wmax < n →
    exec (.setw n) s = .next { s with cause := some .operandErr, phase := .fault }) ∧
  ∀ s : State, s.phase = .idle ∨ s.phase = .done →
    exec (.setw 4095) s = .next { s with cause := some .operandErr, phase := .fault }

/-- 40_width_config.md R57: SETW of zero or of an odd value has no successor state. -/
def Obligations.UnspecifiedWidthHasNoSuccessor : Prop :=
  ∀ (n : Nat) (s : State), s.phase = .idle ∨ s.phase = .done → n ≤ Config.wmax → n = 0 ∨ n % 2 = 1 →
    exec (.setw n) s = .refused .widthUnspecified

/-- 40_width_config.md R55: in phase RUN a SETW is out of sequence whatever its operand, and in phase
FAULT it is dropped whatever its operand (60_exceptions.md R110). -/
def Obligations.SetwOutsideIdleAndDone : Prop :=
  ∀ (n : Nat) (s : State),
    (s.phase = .run → exec (.setw n) s = .next { s with cause := some .seqErr, phase := .fault }) ∧
    (s.phase = .fault → exec (.setw n) s = .next s)

/-- The model's choice for states no run reaches (log 5), from 40_width_config.md R57: once WIDTH holds zero
or an odd value every word is refused, until reset. -/
def Obligations.UndefinedWidthRefusesEveryWord : Prop :=
  ∀ (s : State) (rest : List HostEvent), s.w = 0 ∨ s.w % 2 = 1 →
    (∀ w : Word, s.input = .command w :: rest → step s = .refused .widthUnspecified) ∧
    (s.input = .reset :: rest → step s = .next { State.reset with input := rest })

/-- 93_implementation_defined.md section 1: every 16-bit word in every phase of a defined state has a
defined effect, but for the one SETW of R57. -/
def Obligations.OnlyTheUnspecifiedWidthIsRefused : Prop :=
  ∀ (s : State) (w : Word), s.widthDefined = true →
    ((∃ t, s.accept w = .next t) ↔
      ¬ ∃ n, decode w = .command (.setw n) ∧ (n = 0 ∨ n % 2 = 1) ∧ n ≤ Config.wmax ∧
        (s.phase = .idle ∨ s.phase = .done))

/-- 10_state.md R14, 40_width_config.md R59: WIDTH is written only by a SETW executed in phase IDLE or
DONE, to its operand, so it is constant while a transaction is open. -/
def Obligations.WidthIsWrittenOnlyBySetw : Prop :=
  ∀ (i : Instr) (s t : State), exec i s = .next t →
    t.width = s.width ∨
      ∃ n, i = .setw n ∧ (s.phase = .idle ∨ s.phase = .done) ∧ t.width.toNat = n ∧ t.phase = s.phase

/-! ### STARTC and STARTV -/

/-- 41_two_sum_accumulator.md R67: STARTC, in every phase. -/
def Obligations.StartcOpensAComputeTransaction : Prop :=
  (∀ s : State, exec .startc s = .next
    { width := s.width, mode := .compute, phase := .run, sum1 := 0#8, sum2 := 0#8, tail := 0, cnt := 0,
      computed := 0, claimed := 0, valid := false, werr := false, cause := none, input := s.input }) ∧
  (∀ s t : State, exec .startc s = .next t → exec .startc t = .next t) ∧
  encode .startc = 0x2000#16 ∧ decode 0x2002#16 = .illFormed .reservedBitSet ∧
  (∀ t : State, exec .startc State.reset = .next t → t.status = 0x01#8 ∧ t.w = 16)

/-- 41_two_sum_accumulator.md R70: STARTV, in every phase; the last start command wins. -/
def Obligations.StartvOpensAVerifyTransaction : Prop :=
  (∀ s : State, exec .startv s = .next
    { width := s.width, mode := .verify, phase := .run, sum1 := 0#8, sum2 := 0#8, tail := 0, cnt := 0,
      computed := 0, claimed := 0, valid := false, werr := false, cause := none, input := s.input }) ∧
  (∀ s t : State, exec .startc s = .next t → exec .startv t = exec .startv s) ∧
  (∀ s t : State, exec .startv s = .next t → exec .startc t = exec .startc s) ∧
  encode .startv = 0x2001#16 ∧
  (∀ t : State, exec .startv State.reset = .next t → t.status = 0x05#8)

/-- 10_state.md R29: apart from WIDTH nothing before a start command influences anything after it: two
engines with the same WIDTH, given the same acts from a start command on, run alike for ever. -/
def Obligations.NothingButWidthOutlivesAStart : Prop :=
  ∀ (s t : State) (i : Instr) (rest : List HostEvent) (k : Nat),
    i = .startc ∨ i = .startv → s.width = t.width →
    s.input = .command (encode i) :: rest → t.input = s.input →
    runFor (k + 1) s = runFor (k + 1) t

/-! ### BIT -/

/-- 41_two_sum_accumulator.md R68: in mode COMPUTE a bit goes straight to the sums, and after STARTC and
the bits of `p` the sums are those of `p`. -/
def Obligations.ComputeBitGoesToTheSums : Prop :=
  (∀ (b : Bool) (s : State), s.phase = .run → s.mode = .compute →
    exec (.bit b) s = .next
      { s with
        sum1 := BitVec.ofNat 8 ((s.sum1.toNat + b.toNat) % 255)
        sum2 := BitVec.ofNat 8 ((s.sum2.toNat + (s.sum1.toNat + b.toNat) % 255) % 255) }) ∧
  ∀ (p : BitSeq) (s : State) (rest : List HostEvent), s.widthDefined = true →
    s.input = present (.startc :: bitsCommands p) ++ rest →
    ∃ t, runFor (p.length + 1) s = .next t ∧ t.phase = .run ∧ t.mode = .compute ∧
      (t.sum1.toNat, t.sum2.toNat) = accRun 0 0 p ∧ t.input = rest

/-- 41_two_sum_accumulator.md R69: in mode VERIFY a bit enters the window; once it is full the oldest bit
goes to the sums. -/
def Obligations.VerifyBitEntersTheTailWindow : Prop :=
  ∀ (b : Bool) (s : State), s.phase = .run → s.mode = .verify → s.widthDefined = true →
    (s.cnt < s.w → exec (.bit b) s = .next
      { s with cnt := s.cnt + 1, tail := ((s.tail <<< 1) ||| b.toNat) % 2 ^ s.w }) ∧
    (s.cnt = s.w → exec (.bit b) s = .next
      { s with
        sum1 := BitVec.ofNat 8 (accStep s.sum1.toNat s.sum2.toNat (s.tail.testBit (s.w - 1))).1
        sum2 := BitVec.ofNat 8 (accStep s.sum1.toNat s.sum2.toNat (s.tail.testBit (s.w - 1))).2
        tail := ((s.tail <<< 1) ||| b.toNat) % 2 ^ s.w })

/-- 41_two_sum_accumulator.md R71: which phase admits BIT, what it does in the others, and that it writes no
flag. -/
def Obligations.BitIsGatedByThePhase : Prop :=
  ∀ (b : Bool) (s : State),
    (s.phase = .idle ∨ s.phase = .done →
      exec (.bit b) s = .next { s with cause := some .seqErr, phase := .fault }) ∧
    (s.phase = .fault → exec (.bit b) s = .next s) ∧
    (s.phase = .run → ∃ t, exec (.bit b) s = .next t ∧ t.phase = .run) ∧
    (∀ t, exec (.bit b) s = .next t → t.valid = s.valid ∧ t.werr = s.werr) ∧
    encode (.bit b) = 0x3000#16 ||| (if b then 1#16 else 0#16)

/-- 41_two_sum_accumulator.md R73: the frame of BIT. -/
def Obligations.BitWritesOnlySumsAndWindow : Prop :=
  ∀ (b : Bool) (s t : State), exec (.bit b) s = .next t →
    (t.width = s.width ∧ t.mode = s.mode ∧ t.computed = s.computed ∧ t.claimed = s.claimed ∧
      t.valid = s.valid ∧ t.werr = s.werr ∧ t.input = s.input) ∧
    (s.phase = .run → t.phase = .run ∧ t.cause = s.cause) ∧
    (s.mode = .compute → t.tail = s.tail ∧ t.cnt = s.cnt) ∧
    (s.mode = .verify → s.cnt < s.w → t.sum1 = s.sum1 ∧ t.sum2 = s.sum2) ∧
    (s.phase ≠ .run → t.sum1 = s.sum1 ∧ t.sum2 = s.sum2 ∧ t.tail = s.tail ∧ t.cnt = s.cnt)

/-- 41_two_sum_accumulator.md R62: the step in numbers, and its results in range. -/
def Obligations.AccumulatorStepUsesTheNewFirstSum : Prop :=
  ∀ (s1 s2 : Nat) (b : Bool), s1 ≤ 254 → s2 ≤ 254 →
    accStep s1 s2 b = ((s1 + b.toNat) % 255, (s2 + (s1 + b.toNat) % 255) % 255) ∧
    (accStep s1 s2 b).1 ≤ 254 ∧ (accStep s1 s2 b).2 ≤ 254

/-- 41_two_sum_accumulator.md R64: the adder with at most one subtraction computes the same step. -/
def Obligations.AdderComputesTheModularStep : Prop :=
  (∀ (s1 s2 : Nat) (b : Bool), s1 ≤ 254 → s2 ≤ 254 → accStepAdder s1 s2 b = accStep s1 s2 b) ∧
  accStep 254 0 true = (0, 0) ∧ accStep 254 254 false = (254, 253)

/-- 41_two_sum_accumulator.md R65: the closed forms; the second sum depends on the order of the bits and
the first does not. -/
def Obligations.SumsHaveTheirClosedForms : Prop :=
  (∀ p : BitSeq, accRun 0 0 p =
    ((∑ i : Fin p.length, (p.get i).toNat) % 255,
     (∑ i : Fin p.length, (p.length - i.val) * (p.get i).toNat) % 255)) ∧
  (∀ p q : BitSeq, p.Perm q → (accRun 0 0 p).1 = (accRun 0 0 q).1) ∧
  ∃ p q : BitSeq, p.Perm q ∧ (accRun 0 0 p).2 ≠ (accRun 0 0 q).2

/-- 41_two_sum_accumulator.md R66 (a) to (d). -/
def Obligations.ConsequencesOfTheClosedForms : Prop :=
  (∀ s1 s2 : Nat, s1 ≤ 254 → s2 ≤ 254 → accStep s1 s2 false = (s1, (s2 + s1) % 255)) ∧
  (∀ p : BitSeq, accRun 0 0 (false :: p) = accRun 0 0 p) ∧
  accRun 0 0 (List.replicate 255 true) = (0, 0) ∧
  ∀ (p : BitSeq) (k : Nat) (h : k < p.length),
    (accRun 0 0 (p.set k (!p[k]))).1 ≠ (accRun 0 0 p).1

/-- 41_two_sum_accumulator.md R72: the registers after STARTV and the bits of a sequence. -/
def Obligations.VerifyTransactionSplitsTheMessage : Prop :=
  ∀ (m : BitSeq) (s : State) (rest : List HostEvent), s.widthDefined = true →
    s.input = present (.startv :: bitsCommands m) ++ rest →
    ∃ t, runFor (m.length + 1) s = .next t ∧
      t.cnt = min m.length s.w ∧
      (t.sum1.toNat, t.sum2.toNat) = accRun 0 0 (m.take (m.length - s.w)) ∧
      t.tail = value (m.drop (m.length - s.w)) ∧
      t.phase = .run ∧ t.mode = .verify ∧ t.width = s.width ∧ t.input = rest

/-! ### FIN -/

/-- 42_modular_sum_pack.md R81: FIN in mode COMPUTE. -/
def Obligations.FinDeliversTheChecksum : Prop :=
  (∀ s : State, s.phase = .run → s.mode = .compute → s.widthDefined = true →
    exec .fin s = .next
      { s with
        computed := ((s.sum2.toNat <<< (s.w / 2)) ||| s.sum1.toNat) &&& (2 ^ s.w - 1)
        phase := .done }) ∧
  (∀ s t : State, s.Inv → s.phase = .run → s.mode = .compute → exec .fin s = .next t →
    t.claimed = 0 ∧ t.valid = false ∧ t.werr = false) ∧
  ∀ s t : State, s.phase = .run → s.mode = .compute → s.widthDefined = true → s.sum1 = 0#8 →
    s.sum2 = 0#8 → exec .fin s = .next t → t.computed = 0

/-- 42_modular_sum_pack.md R82: FIN in mode VERIFY, the message long enough. -/
def Obligations.FinDeliversTheVerdict : Prop :=
  (∀ s : State, s.phase = .run → s.mode = .verify → s.cnt = s.w → s.widthDefined = true →
    exec .fin s = .next
      { s with
        computed := pack s.sum1.toNat s.sum2.toNat s.w
        claimed := s.tail
        valid := decide (pack s.sum1.toNat s.sum2.toNat s.w = s.tail % 2 ^ s.w)
        phase := .done }) ∧
  ∀ s t : State, s.Inv → s.phase = .run → s.mode = .verify → s.cnt = s.w → exec .fin s = .next t →
    t.werr = false ∧ t.claimed < 2 ^ t.w ∧ (t.valid = true ↔ t.computed = t.claimed)

/-- 42_modular_sum_pack.md R83: FIN in mode VERIFY, the message short. -/
def Obligations.FinReportsAShortMessage : Prop :=
  (∀ s : State, s.phase = .run → s.mode = .verify → s.cnt < s.w → s.widthDefined = true →
    exec .fin s = .next { s with werr := true, phase := .done }) ∧
  ∀ s t : State, s.Inv → s.phase = .run → s.mode = .verify → s.cnt < s.w → exec .fin s = .next t →
    t.computed = 0 ∧ t.claimed = 0 ∧ t.valid = false ∧ t.cause = none ∧ t.sum1 = 0#8 ∧ t.sum2 = 0#8

/-- 42_modular_sum_pack.md R84: which phase admits FIN and what it does in the others; a FIN right after a
start command is legal. -/
def Obligations.FinIsGatedByThePhase : Prop :=
  ∀ s : State,
    (s.phase = .idle ∨ s.phase = .done →
      exec .fin s = .next { s with cause := some .seqErr, phase := .fault }) ∧
    (s.phase = .fault → exec .fin s = .next s) ∧
    (s.phase = .run → ∃ t, exec .fin s = .next t ∧ t.phase = .done) ∧
    (∀ t, exec .startc s = .next t → ∃ u, exec .fin t = .next u ∧ u.phase = .done ∧ u.computed = 0) ∧
    (s.widthDefined = true → ∀ t, exec .startv s = .next t →
      ∃ u, exec .fin t = .next u ∧ u.phase = .done ∧ u.werr = true) ∧
    encode .fin = 0x4000#16

/-- 42_modular_sum_pack.md R76: from width 16 on the two sums have fields of their own. -/
def Obligations.WideWordHoldsBothSums : Prop :=
  (∀ s1 s2 w : Nat, s1 ≤ 254 → s2 ≤ 254 → 16 ≤ w → w % 2 = 0 →
    pack s1 s2 w = s2 * 2 ^ (w / 2) + s1 ∧
    s1 = pack s1 s2 w % 2 ^ (w / 2) ∧ s2 = pack s1 s2 w >>> (w / 2)) ∧
  ∀ s1 s2 : Nat, s1 ≤ 254 → s2 ≤ 254 → pack s1 s2 16 = 256 * s2 + s1

/-- 42_modular_sum_pack.md R77: below width 16 the fields overlap, bit by bit, and the word no longer
determines the sums. -/
def Obligations.NarrowWordOverlapsTheSums : Prop :=
  (∀ s1 s2 w i : Nat, s1 ≤ 254 → s2 ≤ 254 → 2 ≤ w → w < 16 → w % 2 = 0 → i < w →
    (pack s1 s2 w).testBit i =
      if i < w / 2 then s1.testBit i else (s1.testBit i || s2.testBit (i - w / 2))) ∧
  (∀ s1 s2 w i : Nat, s1 ≤ 254 → s2 ≤ 254 → 2 ≤ w → w < 16 → w % 2 = 0 → w ≤ i →
    (pack s1 s2 w).testBit i = false) ∧
  (∀ w : Nat, 2 ≤ w → w < 16 → w % 2 = 0 → pack 0 128 w = pack 0 0 w) ∧
  pack 4 10 8 = 0xA4 ∧ pack 254 0 8 = 0xFE ∧ pack 22 253 8 = 0xD6

/-- 42_modular_sum_pack.md R78: render and value, most significant bit first, inverse to each other. -/
def Obligations.RenderAndValueAreInverse : Prop :=
  (∀ x w : Nat, x < 2 ^ w → (render x w).length = w ∧ value (render x w) = x ∧
    ∀ k, (h : k < (render x w).length) → (render x w)[k] = x.testBit (w - 1 - k)) ∧
  (∀ s : BitSeq, value s = ∑ k : Fin s.length, (s.get k).toNat * 2 ^ (s.length - 1 - k.val)) ∧
  (∀ s : BitSeq, render (value s) s.length = s) ∧
  value [] = 0 ∧
  render 1538 16 = [false, false, false, false, false, true, true, false,
    false, false, false, false, false, false, true, false]

/-- 42_modular_sum_pack.md R79: the word fits its width. -/
def Obligations.PackedWordFitsItsWidth : Prop :=
  (∀ s1 s2 w : Nat, s1 ≤ 254 → s2 ≤ 254 → 2 ≤ w → w % 2 = 0 →
    pack s1 s2 w < 2 ^ w ∧ (render (pack s1 s2 w) w).length = w) ∧
  (∀ w : Nat, 2 ≤ w → w % 2 = 0 → pack 0 0 w = 0) ∧
  compute [] 16 = List.replicate 16 false ∧
  (∀ s1 s2 w : Nat, s1 ≤ 254 → s2 ≤ 254 → 16 ≤ w → w % 2 = 0 →
    pack s1 s2 w ≤ 254 * 2 ^ (w / 2) + 254 ∧
    pack s1 s2 w % 2 ^ (w / 2) < 256 ∧ pack s1 s2 w / 2 ^ (w / 2) < 256) ∧
  ∀ s1 s2 : Nat, s1 ≤ 254 → s2 ≤ 254 → pack s1 s2 16 % 256 ≠ 0xFF ∧ pack s1 s2 16 / 256 ≠ 0xFF

/-- 42_modular_sum_pack.md R85: the comparator of integers is the equality of the two strings. -/
def Obligations.ComparatorIsStringEquality : Prop :=
  (∀ x y w : Nat, x < 2 ^ w → y < 2 ^ w → (x = y ↔ render x w = render y w)) ∧
  ∀ s t : State, s.Inv → s.phase = .run → s.mode = .verify → s.cnt = s.w → exec .fin s = .next t →
    (t.valid = true ↔ render t.computed t.w = render t.claimed t.w)

/-! ### Faults -/

/-- 60_exceptions.md R109: taking a fault writes CAUSE and PHASE and nothing else. -/
def Obligations.FaultEntryWritesCauseAndPhase : Prop :=
  ∀ (s t : State) (w : Word), s.phase ≠ .fault → s.accept w = .next t → t.phase = .fault →
    ∃ c, t = { s with cause := some c, phase := .fault }

/-- 60_exceptions.md R101, R102, R103: which commands raise which fault. -/
def Obligations.EachFaultHasItsCauses : Prop :=
  ∀ (s t : State) (w : Word), s.phase ≠ .fault → s.cause = none → s.accept w = .next t →
    (t.cause = some .illegalCmd ↔ ∃ why, decode w = .illFormed why) ∧
    (t.cause = some .seqErr ↔
      (∃ n, decode w = .command (.setw n) ∧ s.phase = .run) ∨
      (∃ b, decode w = .command (.bit b) ∧ (s.phase = .idle ∨ s.phase = .done)) ∨
      (decode w = .command .fin ∧ (s.phase = .idle ∨ s.phase = .done))) ∧
    (t.cause = some .operandErr ↔
      ∃ n, decode w = .command (.setw n) ∧ Config.wmax < n ∧ (s.phase = .idle ∨ s.phase = .done)) ∧
    (t.cause ≠ none → t = { s with cause := t.cause, phase := .fault })

/-- 60_exceptions.md R110: in phase FAULT every word but the two start commands is dropped. -/
def Obligations.FaultPhaseDropsAllButStart : Prop :=
  ∀ (s : State) (w : Word), s.widthDefined = true → s.phase = .fault → w ≠ 0x2000#16 → w ≠ 0x2001#16 →
    s.accept w = .next s

/-- 60_exceptions.md R111: phase FAULT is left by a start command or by reset only, which clears CAUSE. -/
def Obligations.FaultIsLeftByStartOrReset : Prop :=
  ∀ s t : State, s.phase = .fault → step s = .next t → t.phase ≠ .fault →
    t.cause = none ∧ ∃ rest, t.input = rest ∧
      (s.input = .command 0x2000#16 :: rest ∨ s.input = .command 0x2001#16 :: rest ∨
        s.input = .reset :: rest)

/-- 60_exceptions.md R112: faults do not nest: a whole run of words without a start command leaves the
first fault's state as it is, and a start command leaves no memory of it. -/
def Obligations.FirstFaultIsKept : Prop :=
  (∀ (i : Instr) (s t : State), i = .startc ∨ i = .startv → exec i s = .next t → t.cause = none) ∧
  ∀ (ws : List Word) (s : State) (rest : List HostEvent), s.widthDefined = true → s.phase = .fault →
    (∀ w ∈ ws, w ≠ 0x2000#16 ∧ w ≠ 0x2001#16) → s.input = ws.map .command ++ rest →
    runFor ws.length s = .next { s with input := rest }

/-- 60_exceptions.md R108: the order of the tests. -/
def Obligations.ChecksAreMadeInOrder : Prop :=
  ∀ (s : State) (w : Word), s.widthDefined = true →
    (s.phase = .fault → decode w ≠ .command .startc → decode w ≠ .command .startv →
      s.accept w = .next s) ∧
    (s.phase ≠ .fault → ∀ why, decode w = .illFormed why →
      s.accept w = .next { s with cause := some .illegalCmd, phase := .fault }) ∧
    (∀ n, decode w = .command (.setw n) → s.phase = .run →
      s.accept w = .next { s with cause := some .seqErr, phase := .fault }) ∧
    (∀ i, decode w = .command i → (∃ b, i = .bit b) ∨ i = .fin → s.phase = .idle ∨ s.phase = .done →
      s.accept w = .next { s with cause := some .seqErr, phase := .fault }) ∧
    (∀ n, decode w = .command (.setw n) → s.phase = .idle ∨ s.phase = .done → Config.wmax < n →
      s.accept w = .next { s with cause := some .operandErr, phase := .fault }) ∧
    (∀ n, decode w = .command (.setw n) → s.phase = .idle ∨ s.phase = .done → n ≤ Config.wmax →
      n = 0 ∨ n % 2 = 1 → s.accept w = .refused .widthUnspecified) ∧
    (∀ i, decode w = .command i → s.accept w = exec i s)

/-- 10_state.md R15: the complete table of phases. -/
def Obligations.PhasesFollowTheTable : Prop :=
  ∀ (s : State) (w : Word), s.widthDefined = true →
    match phaseTable s.phase (decode w) with
    | .to p => ∃ t, s.accept w = .next t ∧ t.phase = p
    | .faults c => ∃ t, s.accept w = .next t ∧ t.phase = .fault ∧ t.cause = some c
    | .dropped => s.accept w = .next s
    | .unspecified => s.accept w = .refused .widthUnspecified

/-! ### Transactions -/

/-- 43_transactions.md R92: a compute transaction delivers `compute(p, w)`, whatever the engine did before;
with the SETW, from phase IDLE or DONE, and without it, from any phase. -/
def Obligations.ComputeTransactionDeliversCompute : Prop :=
  ∀ (p : BitSeq) (w : Nat) (s : State) (rest : List HostEvent) (cs : List Instr),
    2 ≤ w → w % 2 = 0 → w ≤ Config.wmax → s.widthDefined = true →
    (cs = computePseudo p w ∧ (s.phase = .idle ∨ s.phase = .done)) ∨
      (cs = computeTransaction p ∧ s.w = w) →
    s.input = present cs ++ rest →
    ∃ t, runFor cs.length s = .next t ∧
      t.phase = .done ∧ t.mode = .compute ∧ t.cause = none ∧ t.werr = false ∧ t.valid = false ∧
      t.claimed = 0 ∧ (t.sum1.toNat, t.sum2.toNat) = accRun 0 0 p ∧ t.w = w ∧ t.input = rest ∧
      t.computed = value (compute p w) ∧ render t.computed w = compute p w ∧
      readResult t = some (.checksum (compute p w))

/-- 43_transactions.md R93: a verify transaction delivers `verify(m, w)`. -/
def Obligations.VerifyTransactionDeliversVerify : Prop :=
  ∀ (m : BitSeq) (w : Nat) (s : State) (rest : List HostEvent) (cs : List Instr),
    2 ≤ w → w % 2 = 0 → w ≤ Config.wmax → s.widthDefined = true →
    (cs = verifyPseudo m w ∧ (s.phase = .idle ∨ s.phase = .done)) ∨
      (cs = verifyTransaction m ∧ s.w = w) →
    s.input = present cs ++ rest →
    ∃ t, runFor cs.length s = .next t ∧
      t.phase = .done ∧ t.mode = .verify ∧ t.cause = none ∧ t.w = w ∧ t.input = rest ∧
      (match verify m w with
        | .widthError => t.werr = true ∧ t.valid = false ∧ t.computed = 0 ∧ t.claimed = 0
        | .ok valid computed claimed =>
          t.werr = false ∧ t.valid = valid ∧ t.computed = value computed ∧ t.claimed = value claimed) ∧
      readResult t = some (.verdict (verify m w))

/-- 43_transactions.md R96: the round trip, of the functions and on the hardware, at every legal width. -/
def Obligations.ChecksummedMessageVerifies : Prop :=
  (∀ (p : BitSeq) (w : Nat), 2 ≤ w → w % 2 = 0 →
    verify (p ++ compute p w) w = .ok true (compute p w) (compute p w)) ∧
  ∀ (p : BitSeq) (w : Nat) (s u : State) (restC restV : List HostEvent),
    2 ≤ w → w % 2 = 0 → w ≤ Config.wmax → s.w = w → u.w = w →
    s.input = present (computeTransaction p) ++ restC →
    ∃ t, runFor (p.length + 2) s = .next t ∧
      (u.input = present (verifyTransaction (p ++ render t.computed w)) ++ restV →
        ∃ v, runFor (p.length + w + 2) u = .next v ∧
          v.valid = true ∧ v.werr = false ∧ v.claimed = v.computed ∧ v.computed = t.computed)

/-- 43_transactions.md R97 (a) to (d): which corruptions are detected. -/
def Obligations.WhichCorruptionsAreDetected : Prop :=
  (∀ (p : BitSeq) (w k : Nat) (h : k < p.length), 16 ≤ w → w % 2 = 0 →
    compute (p.set k (!p[k])) w ≠ compute p w) ∧
  (∀ (m : BitSeq) (w k : Nat) (h : k < m.length) (x y : BitSeq), 2 ≤ w → w % 2 = 0 →
    m.length - w ≤ k → verify m w = .ok true x y →
    ∃ y', verify (m.set k (!m[k])) w = .ok false x y') ∧
  (accRun 0 0 (List.replicate 253 true ++ [false, true, true]) = (0, 253) ∧
    accRun 0 0 (false :: (List.replicate 252 true ++ [false, true, true])) = (254, 252) ∧
    compute (List.replicate 253 true ++ [false, true, true]) 2 = [true, false] ∧
    compute (false :: (List.replicate 252 true ++ [false, true, true])) 2 = [true, false]) ∧
  ∀ w : Nat, 2 ≤ w → w % 2 = 0 →
    compute [false] w = compute [] w ∧ compute (List.replicate 255 true) w = compute [] w ∧
    compute [] w = List.replicate w false

/-- 43_transactions.md R98: the shortest legal message. -/
def Obligations.ShortestMessageHasAnEmptyPayload : Prop :=
  ∀ (m : BitSeq) (w : Nat), 2 ≤ w → w % 2 = 0 → m.length = w →
    verify m w = .ok (decide (m = List.replicate w false)) (List.replicate w false) m

/-- 43_transactions.md R95: the shape of the output. -/
def Obligations.ResultsFitTheWidth : Prop :=
  (∀ (p : BitSeq) (w : Nat), 2 ≤ w → w % 2 = 0 → (compute p w).length = w) ∧
  ∀ s t : State, s.Inv → s.phase = .run → exec .fin s = .next t →
    t.computed < 2 ^ t.w ∧ t.claimed < 2 ^ t.w

/-- 43_transactions.md R99: a transaction is one-shot: after FIN neither BIT nor FIN is accepted until a
start command, and COMPUTED is written only by FIN (a start command clears it). -/
def Obligations.FinishedTransactionCannotBeExtended : Prop :=
  (∀ (i : Instr) (s t : State), s.phase = .run → exec i s = .next t → i = .fin →
    t.phase = .done ∧
    (∀ b, exec (.bit b) t = .next { t with cause := some .seqErr, phase := .fault }) ∧
    exec .fin t = .next { t with cause := some .seqErr, phase := .fault }) ∧
  (∀ (i : Instr) (s t : State), exec i s = .next t → s.phase ≠ .run → t.phase = .run →
    i = .startc ∨ i = .startv) ∧
  ∀ (i : Instr) (s t : State), exec i s = .next t → t.computed ≠ s.computed →
    (i = .fin ∧ s.phase = .run) ∨ ((i = .startc ∨ i = .startv) ∧ t.computed = 0)

/-- 20_memory.md R34: executing a start command or a well-formed SETW twice in a row leaves the same state
as once. -/
def Obligations.StartAndSetwAreIdempotent : Prop :=
  ∀ (i : Instr) (s t : State), i = .startc ∨ i = .startv ∨ (∃ n, i = .setw n) →
    exec i s = .next t → exec i t = .next t
end

