-- ==== Sys2Proof/Laws/Config.lean ====
section
/-! SUPPORT. What holds of WMAX in every instance (00_scope.md R6). -/

namespace Sys2Proof

theorem Config.wmax_even : Config.wmax % 2 = 0 := by unfold Config.wmax; omega

theorem Config.wmax_ge : 16 ≤ Config.wmax := by unfold Config.wmax; omega

theorem Config.wmax_le : Config.wmax ≤ 4094 := by
  have := Config.wmaxIndex.isLt
  unfold Config.wmax; omega

end Sys2Proof
end

