-- ==== Sys2Proof/Laws/Encoding.lean ====
section
/-! SUPPORT. A word as its fields, and the rows of the opcode map as conditions on the fields. -/

namespace Sys2Proof

/-- A mask of ones keeps the word. -/
theorem word_and_full_mask (w : Word) : w &&& 0xFFFF#16 = w := BitVec.and_allOnes (x := w)

/-- The word of SETW is its two fields side by side (30_encoding.md R42). -/
theorem setw_word_eq_append (a : BitVec 12) : 0x1000#16 ||| BitVec.ofNat 16 a.toNat = 1#4 ++ a := by
  rw [BitVec.ofNat_toNat]
  apply BitVec.eq_of_getLsbD_eq
  intro i hi
  simp only [BitVec.getLsbD_or, BitVec.getLsbD_setWidth, BitVec.getLsbD_append]
  interval_cases i <;> simp

/-- The opcode field, read through its mask. -/
theorem opField_eq_iff (w : Word) (c : BitVec 4) : opField w = c ↔ w &&& 0xF000#16 = c ++ 0#12 := by
  constructor
  · rintro rfl
    apply BitVec.eq_of_getLsbD_eq
    intro i hi
    simp only [opField, BitVec.getLsbD_extractLsb', BitVec.getLsbD_and, BitVec.getLsbD_append]
    interval_cases i <;> simp
  · intro h
    apply BitVec.eq_of_getLsbD_eq
    intro i hi
    have := congrArg (fun v => BitVec.getLsbD v (12 + i)) h
    simp only [opField, BitVec.getLsbD_extractLsb', BitVec.getLsbD_and, BitVec.getLsbD_append] at *
    interval_cases i <;> simpa using this

/-- A word is its two fields (30_encoding.md R42). -/
theorem word_eq_opField_append_argField (w : Word) : w = opField w ++ argField w := by
  apply BitVec.eq_of_getLsbD_eq
  intro i hi
  simp only [opField, argField, BitVec.getLsbD_extractLsb', BitVec.getLsbD_append]
  interval_cases i <;> simp

/-- The row of SETW in fields (30_encoding.md R46). -/
theorem rowSetw_matches_iff (w : Word) : rowSetw.matchesWord w = true ↔ opField w = 1#4 := by
  rw [opField_eq_iff]; simp only [rowSetw, Row.matchesWord, beq_iff_eq]; rfl

/-- The row of BIT in fields. -/
theorem rowBit_matches_iff (w : Word) : rowBit.matchesWord w = true ↔ opField w = 3#4 ∧ w.extractLsb' 1 11 = 0#11 := by
  simp only [rowBit, Row.matchesWord, beq_iff_eq]
  constructor
  · intro h
    constructor <;> apply BitVec.eq_of_getLsbD_eq <;> intro i hi
    · have := congrArg (fun v => BitVec.getLsbD v (12 + i)) h
      simp only [opField, BitVec.getLsbD_extractLsb', BitVec.getLsbD_and] at *
      interval_cases i <;> simpa using this
    · have := congrArg (fun v => BitVec.getLsbD v (1 + i)) h
      simp only [BitVec.getLsbD_extractLsb', BitVec.getLsbD_and] at *
      interval_cases i <;> simpa using this
  · rintro ⟨h1, h2⟩
    apply BitVec.eq_of_getLsbD_eq; intro i hi
    have a1 := fun j => congrArg (fun v => BitVec.getLsbD v j) h1
    have a2 := fun j => congrArg (fun v => BitVec.getLsbD v j) h2
    simp only [opField, BitVec.getLsbD_extractLsb'] at a1 a2
    simp only [BitVec.getLsbD_and]
    have b0 := a1 0; have b1 := a1 1; have b2 := a1 2; have b3 := a1 3
    have c0 := a2 0; have c1 := a2 1; have c2 := a2 2; have c3 := a2 3; have c4 := a2 4
    have c5 := a2 5; have c6 := a2 6; have c7 := a2 7; have c8 := a2 8; have c9 := a2 9; have c10 := a2 10
    simp at *
    interval_cases i <;> simp [*]

/-- The operand field is the reserved bits and bit 0 (30_encoding.md R42, formats M and B). -/
theorem argField_split (w : Word) : argField w = w.extractLsb' 1 11 ++ BitVec.ofBool (w.getLsbD 0) := by
  apply BitVec.eq_of_getLsbD_eq; intro i hi
  simp only [argField, BitVec.getLsbD_extractLsb', BitVec.getLsbD_append, BitVec.getLsbD_ofBool]
  interval_cases i <;> simp

/-- The two parts of the operand field are independent. -/
theorem append_ofBool_eq_iff (a a' : BitVec 11) (b b' : Bool) :
    a ++ BitVec.ofBool b = a' ++ BitVec.ofBool b' ↔ b = b' ∧ a = a' := by
  constructor
  · intro h
    have h' := fun j => congrArg (fun v => BitVec.getLsbD v j) h
    simp only [BitVec.getLsbD_append, BitVec.getLsbD_ofBool] at h'
    refine ⟨by simpa using h' 0, ?_⟩
    apply BitVec.eq_of_getLsbD_eq; intro i hi
    simpa using h' (i + 1)
  · rintro ⟨rfl, rfl⟩; rfl

/-- The operand field 0, as reserved bits and bit 0. -/
theorem argField_eq_zero_iff (w : Word) : argField w = 0#12 ↔ w.getLsbD 0 = false ∧ w.extractLsb' 1 11 = 0#11 := by
  rw [argField_split, ← append_ofBool_eq_iff]; rfl

/-- The operand field 1, as reserved bits and bit 0. -/
theorem argField_eq_one_iff (w : Word) : argField w = 1#12 ↔ w.getLsbD 0 = true ∧ w.extractLsb' 1 11 = 0#11 := by
  rw [argField_split, ← append_ofBool_eq_iff]; rfl

/-- A word is known by its two fields. -/
theorem word_eq_append_iff (w : Word) (c : BitVec 4) (a : BitVec 12) : w = c ++ a ↔ opField w = c ∧ argField w = a := by
  constructor
  · rintro rfl
    constructor <;> apply BitVec.eq_of_getLsbD_eq <;> intro i hi <;>
    simp only [opField, argField, BitVec.getLsbD_extractLsb', BitVec.getLsbD_append] <;> simp [hi]
  · rintro ⟨rfl, rfl⟩; exact word_eq_opField_append_argField w

/-- The row of STARTC in fields. -/
theorem rowStartc_matches_iff (w : Word) : rowStartc.matchesWord w = true ↔ opField w = 2#4 ∧ argField w = 0#12 := by
  rw [← word_eq_append_iff]; simp only [rowStartc, Row.matchesWord, beq_iff_eq, word_and_full_mask]; rfl
/-- The row of STARTV in fields. -/
theorem rowStartv_matches_iff (w : Word) : rowStartv.matchesWord w = true ↔ opField w = 2#4 ∧ argField w = 1#12 := by
  rw [← word_eq_append_iff]; simp only [rowStartv, Row.matchesWord, beq_iff_eq, word_and_full_mask]; rfl
/-- The row of FIN in fields. -/
theorem rowFin_matches_iff (w : Word) : rowFin.matchesWord w = true ↔ opField w = 4#4 ∧ argField w = 0#12 := by
  rw [← word_eq_append_iff]; simp only [rowFin, Row.matchesWord, beq_iff_eq, word_and_full_mask]; rfl

end Sys2Proof
end

