-- ==== Sys2Proof/Laws/State.lean ====
section
/-! SUPPORT. One lemma per field per named update of the state, so that no proof unfolds a record update. -/

namespace Sys2Proof.Machine

/-- The accessor `w` reads WIDTH. -/
theorem State.w_eq (s : State) : s.w = s.width.toNat := rfl

/-- Dropping a word leaves the state as it is (60_exceptions.md R110). -/
@[simp] theorem State.drop_eq (s : State) : s.drop = s := rfl

/-! ### raiseFault -/

@[simp] theorem State.raiseFault_width (c : FaultCode) (s : State) :
    (s.raiseFault c).width = s.width := rfl
@[simp] theorem State.raiseFault_mode (c : FaultCode) (s : State) :
    (s.raiseFault c).mode = s.mode := rfl
@[simp] theorem State.raiseFault_phase (c : FaultCode) (s : State) :
    (s.raiseFault c).phase = .fault := rfl
@[simp] theorem State.raiseFault_sum1 (c : FaultCode) (s : State) :
    (s.raiseFault c).sum1 = s.sum1 := rfl
@[simp] theorem State.raiseFault_sum2 (c : FaultCode) (s : State) :
    (s.raiseFault c).sum2 = s.sum2 := rfl
@[simp] theorem State.raiseFault_tail (c : FaultCode) (s : State) :
    (s.raiseFault c).tail = s.tail := rfl
@[simp] theorem State.raiseFault_cnt (c : FaultCode) (s : State) :
    (s.raiseFault c).cnt = s.cnt := rfl
@[simp] theorem State.raiseFault_computed (c : FaultCode) (s : State) :
    (s.raiseFault c).computed = s.computed := rfl
@[simp] theorem State.raiseFault_claimed (c : FaultCode) (s : State) :
    (s.raiseFault c).claimed = s.claimed := rfl
@[simp] theorem State.raiseFault_valid (c : FaultCode) (s : State) :
    (s.raiseFault c).valid = s.valid := rfl
@[simp] theorem State.raiseFault_werr (c : FaultCode) (s : State) :
    (s.raiseFault c).werr = s.werr := rfl
@[simp] theorem State.raiseFault_cause (c : FaultCode) (s : State) :
    (s.raiseFault c).cause = some c := rfl
@[simp] theorem State.raiseFault_input (c : FaultCode) (s : State) :
    (s.raiseFault c).input = s.input := rfl
@[simp] theorem State.raiseFault_w (c : FaultCode) (s : State) : (s.raiseFault c).w = s.w := rfl

/-! ### openTransaction -/

@[simp] theorem State.openTransaction_width (m : Mode) (s : State) :
    (s.openTransaction m).width = s.width := rfl
@[simp] theorem State.openTransaction_mode (m : Mode) (s : State) :
    (s.openTransaction m).mode = m := rfl
@[simp] theorem State.openTransaction_phase (m : Mode) (s : State) :
    (s.openTransaction m).phase = .run := rfl
@[simp] theorem State.openTransaction_sum1 (m : Mode) (s : State) :
    (s.openTransaction m).sum1 = 0#8 := rfl
@[simp] theorem State.openTransaction_sum2 (m : Mode) (s : State) :
    (s.openTransaction m).sum2 = 0#8 := rfl
@[simp] theorem State.openTransaction_tail (m : Mode) (s : State) :
    (s.openTransaction m).tail = 0 := rfl
@[simp] theorem State.openTransaction_cnt (m : Mode) (s : State) :
    (s.openTransaction m).cnt = 0 := rfl
@[simp] theorem State.openTransaction_computed (m : Mode) (s : State) :
    (s.openTransaction m).computed = 0 := rfl
@[simp] theorem State.openTransaction_claimed (m : Mode) (s : State) :
    (s.openTransaction m).claimed = 0 := rfl
@[simp] theorem State.openTransaction_valid (m : Mode) (s : State) :
    (s.openTransaction m).valid = false := rfl
@[simp] theorem State.openTransaction_werr (m : Mode) (s : State) :
    (s.openTransaction m).werr = false := rfl
@[simp] theorem State.openTransaction_cause (m : Mode) (s : State) :
    (s.openTransaction m).cause = none := rfl
@[simp] theorem State.openTransaction_input (m : Mode) (s : State) :
    (s.openTransaction m).input = s.input := rfl
@[simp] theorem State.openTransaction_w (m : Mode) (s : State) : (s.openTransaction m).w = s.w := rfl

/-! ### writeWidth -/

@[simp] theorem State.writeWidth_width (n : Nat) (s : State) :
    (s.writeWidth n).width = BitVec.ofNat 12 n := rfl
@[simp] theorem State.writeWidth_mode (n : Nat) (s : State) :
    (s.writeWidth n).mode = s.mode := rfl
@[simp] theorem State.writeWidth_phase (n : Nat) (s : State) :
    (s.writeWidth n).phase = s.phase := rfl
@[simp] theorem State.writeWidth_sum1 (n : Nat) (s : State) :
    (s.writeWidth n).sum1 = s.sum1 := rfl
@[simp] theorem State.writeWidth_sum2 (n : Nat) (s : State) :
    (s.writeWidth n).sum2 = s.sum2 := rfl
@[simp] theorem State.writeWidth_tail (n : Nat) (s : State) :
    (s.writeWidth n).tail = s.tail := rfl
@[simp] theorem State.writeWidth_cnt (n : Nat) (s : State) :
    (s.writeWidth n).cnt = s.cnt := rfl
@[simp] theorem State.writeWidth_computed (n : Nat) (s : State) :
    (s.writeWidth n).computed = s.computed := rfl
@[simp] theorem State.writeWidth_claimed (n : Nat) (s : State) :
    (s.writeWidth n).claimed = s.claimed := rfl
@[simp] theorem State.writeWidth_valid (n : Nat) (s : State) :
    (s.writeWidth n).valid = s.valid := rfl
@[simp] theorem State.writeWidth_werr (n : Nat) (s : State) :
    (s.writeWidth n).werr = s.werr := rfl
@[simp] theorem State.writeWidth_cause (n : Nat) (s : State) :
    (s.writeWidth n).cause = s.cause := rfl
@[simp] theorem State.writeWidth_input (n : Nat) (s : State) :
    (s.writeWidth n).input = s.input := rfl

/-! ### feed -/

@[simp] theorem State.feed_width (b : Bool) (s : State) :
    (s.feed b).width = s.width := rfl
@[simp] theorem State.feed_mode (b : Bool) (s : State) :
    (s.feed b).mode = s.mode := rfl
@[simp] theorem State.feed_phase (b : Bool) (s : State) :
    (s.feed b).phase = s.phase := rfl
@[simp] theorem State.feed_sum1 (b : Bool) (s : State) :
    (s.feed b).sum1 = BitVec.ofNat 8 (accStep s.sum1.toNat s.sum2.toNat b).1 := rfl
@[simp] theorem State.feed_sum2 (b : Bool) (s : State) :
    (s.feed b).sum2 = BitVec.ofNat 8 (accStep s.sum1.toNat s.sum2.toNat b).2 := rfl
@[simp] theorem State.feed_tail (b : Bool) (s : State) :
    (s.feed b).tail = s.tail := rfl
@[simp] theorem State.feed_cnt (b : Bool) (s : State) :
    (s.feed b).cnt = s.cnt := rfl
@[simp] theorem State.feed_computed (b : Bool) (s : State) :
    (s.feed b).computed = s.computed := rfl
@[simp] theorem State.feed_claimed (b : Bool) (s : State) :
    (s.feed b).claimed = s.claimed := rfl
@[simp] theorem State.feed_valid (b : Bool) (s : State) :
    (s.feed b).valid = s.valid := rfl
@[simp] theorem State.feed_werr (b : Bool) (s : State) :
    (s.feed b).werr = s.werr := rfl
@[simp] theorem State.feed_cause (b : Bool) (s : State) :
    (s.feed b).cause = s.cause := rfl
@[simp] theorem State.feed_input (b : Bool) (s : State) :
    (s.feed b).input = s.input := rfl
@[simp] theorem State.feed_w (b : Bool) (s : State) : (s.feed b).w = s.w := rfl

/-! ### pushTail -/

@[simp] theorem State.pushTail_width (b : Bool) (s : State) :
    (s.pushTail b).width = s.width := rfl
@[simp] theorem State.pushTail_mode (b : Bool) (s : State) :
    (s.pushTail b).mode = s.mode := rfl
@[simp] theorem State.pushTail_phase (b : Bool) (s : State) :
    (s.pushTail b).phase = s.phase := rfl
@[simp] theorem State.pushTail_sum1 (b : Bool) (s : State) :
    (s.pushTail b).sum1 = s.sum1 := rfl
@[simp] theorem State.pushTail_sum2 (b : Bool) (s : State) :
    (s.pushTail b).sum2 = s.sum2 := rfl
@[simp] theorem State.pushTail_tail (b : Bool) (s : State) :
    (s.pushTail b).tail = ((s.tail <<< 1) ||| b.toNat) % 2 ^ s.w := rfl
@[simp] theorem State.pushTail_cnt (b : Bool) (s : State) :
    (s.pushTail b).cnt = s.cnt := rfl
@[simp] theorem State.pushTail_computed (b : Bool) (s : State) :
    (s.pushTail b).computed = s.computed := rfl
@[simp] theorem State.pushTail_claimed (b : Bool) (s : State) :
    (s.pushTail b).claimed = s.claimed := rfl
@[simp] theorem State.pushTail_valid (b : Bool) (s : State) :
    (s.pushTail b).valid = s.valid := rfl
@[simp] theorem State.pushTail_werr (b : Bool) (s : State) :
    (s.pushTail b).werr = s.werr := rfl
@[simp] theorem State.pushTail_cause (b : Bool) (s : State) :
    (s.pushTail b).cause = s.cause := rfl
@[simp] theorem State.pushTail_input (b : Bool) (s : State) :
    (s.pushTail b).input = s.input := rfl
@[simp] theorem State.pushTail_w (b : Bool) (s : State) : (s.pushTail b).w = s.w := rfl

/-! ### countBit -/

@[simp] theorem State.countBit_width (s : State) :
    (s.countBit).width = s.width := rfl
@[simp] theorem State.countBit_mode (s : State) :
    (s.countBit).mode = s.mode := rfl
@[simp] theorem State.countBit_phase (s : State) :
    (s.countBit).phase = s.phase := rfl
@[simp] theorem State.countBit_sum1 (s : State) :
    (s.countBit).sum1 = s.sum1 := rfl
@[simp] theorem State.countBit_sum2 (s : State) :
    (s.countBit).sum2 = s.sum2 := rfl
@[simp] theorem State.countBit_tail (s : State) :
    (s.countBit).tail = s.tail := rfl
@[simp] theorem State.countBit_cnt (s : State) :
    (s.countBit).cnt = s.cnt + 1 := rfl
@[simp] theorem State.countBit_computed (s : State) :
    (s.countBit).computed = s.computed := rfl
@[simp] theorem State.countBit_claimed (s : State) :
    (s.countBit).claimed = s.claimed := rfl
@[simp] theorem State.countBit_valid (s : State) :
    (s.countBit).valid = s.valid := rfl
@[simp] theorem State.countBit_werr (s : State) :
    (s.countBit).werr = s.werr := rfl
@[simp] theorem State.countBit_cause (s : State) :
    (s.countBit).cause = s.cause := rfl
@[simp] theorem State.countBit_input (s : State) :
    (s.countBit).input = s.input := rfl
@[simp] theorem State.countBit_w (s : State) : (s.countBit).w = s.w := rfl

/-! ### deliverChecksum -/

@[simp] theorem State.deliverChecksum_width (s : State) :
    (s.deliverChecksum).width = s.width := rfl
@[simp] theorem State.deliverChecksum_mode (s : State) :
    (s.deliverChecksum).mode = s.mode := rfl
@[simp] theorem State.deliverChecksum_phase (s : State) :
    (s.deliverChecksum).phase = .done := rfl
@[simp] theorem State.deliverChecksum_sum1 (s : State) :
    (s.deliverChecksum).sum1 = s.sum1 := rfl
@[simp] theorem State.deliverChecksum_sum2 (s : State) :
    (s.deliverChecksum).sum2 = s.sum2 := rfl
@[simp] theorem State.deliverChecksum_tail (s : State) :
    (s.deliverChecksum).tail = s.tail := rfl
@[simp] theorem State.deliverChecksum_cnt (s : State) :
    (s.deliverChecksum).cnt = s.cnt := rfl
@[simp] theorem State.deliverChecksum_computed (s : State) :
    (s.deliverChecksum).computed = s.packedWord := rfl
@[simp] theorem State.deliverChecksum_claimed (s : State) :
    (s.deliverChecksum).claimed = s.claimed := rfl
@[simp] theorem State.deliverChecksum_valid (s : State) :
    (s.deliverChecksum).valid = s.valid := rfl
@[simp] theorem State.deliverChecksum_werr (s : State) :
    (s.deliverChecksum).werr = s.werr := rfl
@[simp] theorem State.deliverChecksum_cause (s : State) :
    (s.deliverChecksum).cause = s.cause := rfl
@[simp] theorem State.deliverChecksum_input (s : State) :
    (s.deliverChecksum).input = s.input := rfl
@[simp] theorem State.deliverChecksum_w (s : State) : (s.deliverChecksum).w = s.w := rfl

/-! ### deliverVerdict -/

@[simp] theorem State.deliverVerdict_width (ok : Bool) (s : State) :
    (s.deliverVerdict ok).width = s.width := rfl
@[simp] theorem State.deliverVerdict_mode (ok : Bool) (s : State) :
    (s.deliverVerdict ok).mode = s.mode := rfl
@[simp] theorem State.deliverVerdict_phase (ok : Bool) (s : State) :
    (s.deliverVerdict ok).phase = .done := rfl
@[simp] theorem State.deliverVerdict_sum1 (ok : Bool) (s : State) :
    (s.deliverVerdict ok).sum1 = s.sum1 := rfl
@[simp] theorem State.deliverVerdict_sum2 (ok : Bool) (s : State) :
    (s.deliverVerdict ok).sum2 = s.sum2 := rfl
@[simp] theorem State.deliverVerdict_tail (ok : Bool) (s : State) :
    (s.deliverVerdict ok).tail = s.tail := rfl
@[simp] theorem State.deliverVerdict_cnt (ok : Bool) (s : State) :
    (s.deliverVerdict ok).cnt = s.cnt := rfl
@[simp] theorem State.deliverVerdict_computed (ok : Bool) (s : State) :
    (s.deliverVerdict ok).computed = s.packedWord := rfl
@[simp] theorem State.deliverVerdict_claimed (ok : Bool) (s : State) :
    (s.deliverVerdict ok).claimed = s.tail := rfl
@[simp] theorem State.deliverVerdict_valid (ok : Bool) (s : State) :
    (s.deliverVerdict ok).valid = ok := rfl
@[simp] theorem State.deliverVerdict_werr (ok : Bool) (s : State) :
    (s.deliverVerdict ok).werr = s.werr := rfl
@[simp] theorem State.deliverVerdict_cause (ok : Bool) (s : State) :
    (s.deliverVerdict ok).cause = s.cause := rfl
@[simp] theorem State.deliverVerdict_input (ok : Bool) (s : State) :
    (s.deliverVerdict ok).input = s.input := rfl
@[simp] theorem State.deliverVerdict_w (ok : Bool) (s : State) : (s.deliverVerdict ok).w = s.w := rfl

/-! ### deliverWidthError -/

@[simp] theorem State.deliverWidthError_width (s : State) :
    (s.deliverWidthError).width = s.width := rfl
@[simp] theorem State.deliverWidthError_mode (s : State) :
    (s.deliverWidthError).mode = s.mode := rfl
@[simp] theorem State.deliverWidthError_phase (s : State) :
    (s.deliverWidthError).phase = .done := rfl
@[simp] theorem State.deliverWidthError_sum1 (s : State) :
    (s.deliverWidthError).sum1 = s.sum1 := rfl
@[simp] theorem State.deliverWidthError_sum2 (s : State) :
    (s.deliverWidthError).sum2 = s.sum2 := rfl
@[simp] theorem State.deliverWidthError_tail (s : State) :
    (s.deliverWidthError).tail = s.tail := rfl
@[simp] theorem State.deliverWidthError_cnt (s : State) :
    (s.deliverWidthError).cnt = s.cnt := rfl
@[simp] theorem State.deliverWidthError_computed (s : State) :
    (s.deliverWidthError).computed = s.computed := rfl
@[simp] theorem State.deliverWidthError_claimed (s : State) :
    (s.deliverWidthError).claimed = s.claimed := rfl
@[simp] theorem State.deliverWidthError_valid (s : State) :
    (s.deliverWidthError).valid = s.valid := rfl
@[simp] theorem State.deliverWidthError_werr (s : State) :
    (s.deliverWidthError).werr = true := rfl
@[simp] theorem State.deliverWidthError_cause (s : State) :
    (s.deliverWidthError).cause = s.cause := rfl
@[simp] theorem State.deliverWidthError_input (s : State) :
    (s.deliverWidthError).input = s.input := rfl
@[simp] theorem State.deliverWidthError_w (s : State) : (s.deliverWidthError).w = s.w := rfl

end Sys2Proof.Machine
end

