-- ==== Sys2Proof/Laws/Exec.lean ====
section
/-! SUPPORT. What an instruction can do, said once: the effects of `exec`, one per branch of the rules. -/

namespace Sys2Proof.Machine

/-- The widths the spec gives a behaviour (40_width_config.md R57). -/
theorem unspecifiedWidth_iff (n : Nat) : unspecifiedWidth n = true ↔ n = 0 ∨ n % 2 = 1 := by
  simp [unspecifiedWidth]

theorem unspecifiedWidth_false_iff (n : Nat) : unspecifiedWidth n = false ↔ 2 ≤ n ∧ n % 2 = 0 := by
  simp [unspecifiedWidth]; omega

theorem classifyWidth_tooLarge {wmax n : Nat} (h : wmax < n) : classifyWidth wmax n = .tooLarge := by
  simp [classifyWidth, h]

theorem classifyWidth_unspecified {wmax n : Nat} (h : n ≤ wmax) (hn : n = 0 ∨ n % 2 = 1) :
    classifyWidth wmax n = .unspecified := by
  simp [classifyWidth, Nat.not_lt.mpr h, (unspecifiedWidth_iff n).mpr hn]

theorem classifyWidth_legal {wmax n : Nat} (h2 : 2 ≤ n) (he : n % 2 = 0) (h : n ≤ wmax) :
    classifyWidth wmax n = .legal := by
  simp [classifyWidth, Nat.not_lt.mpr h, (unspecifiedWidth_false_iff n).mpr ⟨h2, he⟩]

theorem State.widthDefined_iff (s : State) : s.widthDefined = true ↔ 2 ≤ s.w ∧ s.w % 2 = 0 := by
  rw [State.widthDefined, Bool.not_eq_true', unspecifiedWidth_false_iff]

/-- One constructor per branch of the commands' pseudocode that has a successor state. -/
inductive Effect : Instr → State → State → Prop where
  /-- R110. -/
  | dropped {i s} : s.phase = .fault → i ≠ .startc → i ≠ .startv → Effect i s s
  /-- R55. -/
  | setwOpen {n s} : s.phase = .run → Effect (.setw n) s (s.raiseFault .seqErr)
  /-- R56. -/
  | setwTooLarge {n s} : s.phase = .idle ∨ s.phase = .done → Config.wmax < n →
      Effect (.setw n) s (s.raiseFault .operandErr)
  /-- R58. -/
  | setwLegal {n s} : s.phase = .idle ∨ s.phase = .done → 2 ≤ n → n % 2 = 0 → n ≤ Config.wmax →
      Effect (.setw n) s (s.writeWidth n)
  /-- R67. -/
  | startc {s} : Effect .startc s (s.openTransaction .compute)
  /-- R70. -/
  | startv {s} : Effect .startv s (s.openTransaction .verify)
  /-- R71. -/
  | bitClosed {b s} : s.phase = .idle ∨ s.phase = .done → Effect (.bit b) s (s.raiseFault .seqErr)
  /-- R68. -/
  | bitCompute {b s} : s.phase = .run → s.mode = .compute → Effect (.bit b) s (s.feed b)
  /-- R69, the window filling. -/
  | bitFills {b s} : s.phase = .run → s.mode = .verify → s.cnt < s.w →
      Effect (.bit b) s (s.countBit.pushTail b)
  /-- R69, the window full. -/
  | bitSlides {b s} : s.phase = .run → s.mode = .verify → ¬ s.cnt < s.w →
      Effect (.bit b) s ((s.feed s.oldestBit).pushTail b)
  /-- R84. -/
  | finClosed {s} : s.phase = .idle ∨ s.phase = .done → Effect .fin s (s.raiseFault .seqErr)
  /-- R81. -/
  | finCompute {s} : s.phase = .run → s.mode = .compute → Effect .fin s s.deliverChecksum
  /-- R82. -/
  | finVerdict {s} : s.phase = .run → s.mode = .verify → s.cnt = s.w →
      Effect .fin s (s.deliverVerdict s.comparator)
  /-- R83. -/
  | finShort {s} : s.phase = .run → s.mode = .verify → s.cnt ≠ s.w → Effect .fin s s.deliverWidthError

/-- Everything SETW can do. -/
theorem execSetw_effect {n : Nat} {s t : State} (h : execSetw n s = .next t) : Effect (.setw n) s t := by
  unfold execSetw setWidthAt at h
  have key : ∀ q, s.phase = q → q = .idle ∨ q = .done →
      (match classifyWidth Config.wmax n with
        | .tooLarge => Host.Outcome.next (s.raiseFault .operandErr)
        | .unspecified => (.refused .widthUnspecified : Host.Outcome State Fault Refusal)
        | .legal => .next (s.writeWidth n)) = .next t → Effect (.setw n) s t := by
    intro q hq ho h
    have hp : s.phase = .idle ∨ s.phase = .done := hq ▸ ho
    unfold classifyWidth at h
    split at h <;> rename_i hc <;> split at hc
    · cases h; exact .setwTooLarge hp ‹_›
    · split at hc <;> cases hc
    · cases hc
    · split at hc <;> cases h
    · cases hc
    · split at hc
      · cases hc
      · rename_i hw hu
        cases h
        have hb := (unspecifiedWidth_false_iff n).mp (by simpa using hu)
        exact .setwLegal hp hb.1 hb.2 (by omega)
  split at h <;> rename_i hp
  · cases h; exact .dropped hp (by simp) (by simp)
  · cases h; exact .setwOpen hp
  · exact key _ hp (.inl rfl) h
  · exact key _ hp (.inr rfl) h

/-- Everything BIT can do. -/
theorem execBit_effect {b : Bool} {s t : State} (h : execBit b s = .next t) : Effect (.bit b) s t := by
  unfold execBit at h
  split at h <;> rename_i hp
  · cases h; exact .dropped hp (by simp) (by simp)
  · cases h; exact .bitClosed (.inl hp)
  · cases h; exact .bitClosed (.inr hp)
  · split at h <;> rename_i hm <;> cases h
    · exact .bitCompute hp hm
    · unfold State.receiveMessageBit State.windowFilling
      by_cases hc : s.cnt < s.w
      · simpa [hc] using Effect.bitFills hp hm hc
      · simpa [hc] using Effect.bitSlides hp hm hc

/-- Everything FIN can do. -/
theorem execFin_effect {s t : State} (h : execFin s = .next t) : Effect .fin s t := by
  unfold execFin at h
  split at h <;> rename_i hp
  · cases h; exact .dropped hp (by simp) (by simp)
  · cases h; exact .finClosed (.inl hp)
  · cases h; exact .finClosed (.inr hp)
  · split at h <;> rename_i hm <;> cases h
    · exact .finCompute hp hm
    · by_cases hc : s.cnt = s.w
      · simpa [hc] using Effect.finVerdict hp hm hc
      · simpa [hc] using Effect.finShort hp hm hc

/-- Everything a command can do. -/
theorem exec_effect {i : Instr} {s t : State} (h : exec i s = .next t) : Effect i s t := by
  cases i with
  | setw n => exact execSetw_effect h
  | startc => cases h; exact .startc
  | startv => cases h; exact .startv
  | bit b => exact execBit_effect h
  | fin => exact execFin_effect h

/-- Each effect is what the command does. -/
theorem Effect.exec_eq {i : Instr} {s t : State} (h : Effect i s t) : exec i s = .next t := by
  cases h with
  | dropped hp h1 h2 =>
    cases i <;> simp_all [exec, execSetw, setWidthAt, execBit, execFin]
  | setwOpen hp => simp [exec, execSetw, setWidthAt, hp]
  | setwTooLarge hp hn =>
    rcases hp with hp | hp <;> simp [exec, execSetw, setWidthAt, hp, classifyWidth_tooLarge hn]
  | setwLegal hp h2 he hn =>
    rcases hp with hp | hp <;> simp [exec, execSetw, setWidthAt, hp, classifyWidth_legal h2 he hn]
  | startc => rfl
  | startv => rfl
  | bitClosed hp => rcases hp with hp | hp <;> simp [exec, execBit, hp]
  | bitCompute hp hm => simp [exec, execBit, hp, hm]
  | bitFills hp hm hc => simp [exec, execBit, hp, hm, State.receiveMessageBit, State.windowFilling, hc]
  | bitSlides hp hm hc => simp [exec, execBit, hp, hm, State.receiveMessageBit, State.windowFilling, hc]
  | finClosed hp => rcases hp with hp | hp <;> simp [exec, execFin, hp]
  | finCompute hp hm => simp [exec, execFin, hp, hm]
  | finVerdict hp hm hc => simp [exec, execFin, hp, hm, hc]
  | finShort hp hm hc => simp [exec, execFin, hp, hm, hc]

theorem exec_next_iff {i : Instr} {s t : State} : exec i s = .next t ↔ Effect i s t :=
  ⟨exec_effect, Effect.exec_eq⟩

/-- No command touches what the host has still to do. -/
theorem Effect.input_eq {i : Instr} {s t : State} (h : Effect i s t) : t.input = s.input := by
  cases h <;> simp

/-- The only refusal (92_eei_decisions.md, notes for the modeller). -/
theorem exec_refused {i : Instr} {s : State} {r : Refusal} (h : exec i s = .refused r) :
    r = .widthUnspecified ∧ ∃ n, i = .setw n ∧ n ≤ Config.wmax ∧ (n = 0 ∨ n % 2 = 1) ∧
      (s.phase = .idle ∨ s.phase = .done) := by
  cases i with
  | setw n =>
    simp only [exec, execSetw, setWidthAt, classifyWidth] at h
    split at h
    · cases h
    · cases h
    all_goals
      rename_i hp
      split at h <;> rename_i hc <;> (try cases h)
      split at hc
      · cases hc
      · split at hc
        · rename_i hu
          exact ⟨rfl, n, rfl, by omega, (unspecifiedWidth_iff n).mp hu, by simp [hp]⟩
        · cases hc
  | startc => cases h
  | startv => cases h
  | bit b =>
    simp only [exec, execBit] at h
    split at h <;> (try cases h)
    split at h <;> cases h
  | fin =>
    simp only [exec, execFin] at h
    split at h <;> (try cases h)
    split at h <;> cases h

end Sys2Proof.Machine
end

