-- ==== Sys2Proof/Laws/Pack.lean ====
section
/-! SUPPORT. The packed word and the two readings of a word as a sequence of symbols. -/

namespace Sys2Proof.Machine

/-- The mask is a remainder (42_modular_sum_pack.md R75). -/
theorem pack_eq_mod (s1 s2 w : Nat) : pack s1 s2 w = ((s2 <<< (w / 2)) ||| s1) % 2 ^ w :=
  Nat.and_two_pow_sub_one_eq_mod _ _

/-- A bit of the packed word. -/
theorem pack_testBit (s1 s2 w i : Nat) :
    (pack s1 s2 w).testBit i =
      (decide (i < w) && (decide (w / 2 ≤ i) && s2.testBit (i - w / 2) || s1.testBit i)) := by
  simp [pack_eq_mod]

/-- The packed word of zeros is zero at every width. -/
theorem pack_zero (w : Nat) : pack 0 0 w = 0 := by simp [pack]

/-- The packed word fits its width. -/
theorem pack_lt_two_pow (s1 s2 w : Nat) : pack s1 s2 w < 2 ^ w := by
  rw [pack_eq_mod]; exact Nat.mod_lt _ (Nat.two_pow_pos w)

@[simp] theorem render_length_eq (x w : Nat) : (render x w).length = w := by simp [render]

/-- One symbol more: the most significant bit first. -/
theorem render_succ (x w : Nat) : render x (w + 1) = x.testBit w :: render x w := by
  simp only [render, List.range_succ_eq_map, List.map_cons, List.map_map]
  congr 1
  apply List.map_congr_left
  intro k _
  simp only [Function.comp, Nat.succ_eq_add_one]
  congr 1
  omega

@[simp] theorem value_nil : value [] = 0 := rfl

/-- The value of a sequence fits its length. -/
theorem value_lt_two_pow (s : BitSeq) : value s < 2 ^ s.length := by
  induction s with
  | nil => simp
  | cons b s ih =>
    have hb := Bool.toNat_le b
    simp only [value, List.length_cons, Nat.pow_succ]
    nlinarith

/-- The value of a concatenation. -/
theorem value_append (s t : BitSeq) : value (s ++ t) = value s * 2 ^ t.length + value t := by
  induction s with
  | nil => simp
  | cons b s ih => simp only [List.cons_append, value, ih, List.length_append, Nat.pow_add]; ring

/-- A symbol appended at the end enters at bit 0. -/
theorem value_concat (s : BitSeq) (b : Bool) : value (s ++ [b]) = 2 * value s + b.toNat := by
  rw [value_append]; simp [value]; omega

/-- The shift of the tail window, in numbers. -/
theorem shift_or_bit (x : Nat) (b : Bool) : (x <<< 1) ||| b.toNat = 2 * x + b.toNat := by
  have h := Nat.two_pow_add_eq_or_of_lt (b := b.toNat) (i := 1) (by cases b <;> decide) x
  rw [Nat.shiftLeft_eq, Nat.mul_comm]
  simpa using h.symm

end Sys2Proof.Machine
end

