-- ==== Sys2Proof/Laws/PerInstr.lean ====
section
/-! SUPPORT. The family EncodesInItsRow: the word of a well-formed command matches its own row. -/

namespace Sys2Proof.Laws.EncodesInItsRow

/-- The command's row of the opcode map (30_encoding.md R46). -/
def rowOf : Instr → Row
  | .setw _ => rowSetw
  | .startc => rowStartc
  | .startv => rowStartv
  | .bit _ => rowBit
  | .fin => rowFin

/-- The word of a well-formed command matches the command's row. -/
def Statement (i : Instr) : Prop := WellFormed i → (rowOf i).matchesWord (encode i) = true

theorem setw (n : Nat) : Statement (.setw n) := by
  intro h
  have hn : n ≤ 4095 := by simpa [WellFormed, Instr.wellFormed] using h
  have he : encode (.setw n) = 1#4 ++ BitVec.ofNat 12 n := by
    rw [← setw_word_eq_append, BitVec.toNat_ofNat, Nat.mod_eq_of_lt (by omega)]
    rfl
  exact (rowSetw_matches_iff _).mpr ((word_eq_append_iff _ _ _).mp he).1

theorem startc : Statement .startc := fun _ => by decide

theorem startv : Statement .startv := fun _ => by decide

theorem bit (b : Bool) : Statement (.bit b) := fun _ => by cases b <;> decide

theorem fin : Statement .fin := fun _ => by decide

end Sys2Proof.Laws.EncodesInItsRow
end

