-- ==== Sys2Proof/Laws/Step.lean ====
section
/-! SUPPORT. What one accepted word and one step can do, and how a run of steps unrolls. -/

namespace Sys2Proof.Machine

@[simp] theorem decode_encode_startc : decode (encode .startc) = .command .startc := by decide
@[simp] theorem decode_encode_startv : decode (encode .startv) = .command .startv := by decide
@[simp] theorem decode_encode_bit (b : Bool) : decode (encode (.bit b)) = .command (.bit b) := by
  cases b <;> decide
@[simp] theorem decode_encode_fin : decode (encode .fin) = .command .fin := by decide

/-- A word that is ill-formed (30_encoding.md R47). -/
theorem State.receiveIllFormed_fault {s : State} (h : s.phase = .fault) : s.receiveIllFormed = s := by
  simp [State.receiveIllFormed, h]

theorem State.receiveIllFormed_other {s : State} (h : s.phase ≠ .fault) :
    s.receiveIllFormed = s.raiseFault .illegalCmd := by
  unfold State.receiveIllFormed
  split <;> first | rfl | exact absurd ‹_› h

theorem State.accept_command {s : State} {w : Word} {i : Instr} (hw : s.widthDefined = true)
    (hd : decode w = .command i) : s.accept w = exec i s := by
  simp [State.accept, hw, hd]

theorem State.accept_illFormed {s : State} {w : Word} {why : IllFormed} (hw : s.widthDefined = true)
    (hd : decode w = .illFormed why) : s.accept w = .next s.receiveIllFormed := by
  simp [State.accept, hw, hd]

theorem State.accept_undefined {s : State} (w : Word) (hw : s.widthDefined = false) :
    s.accept w = .refused .widthUnspecified := by
  simp [State.accept, hw]

/-- Everything an accepted word can do. -/
theorem State.accept_next {s t : State} {w : Word} (h : s.accept w = .next t) :
    s.widthDefined = true ∧
      ((∃ i, decode w = .command i ∧ Effect i s t) ∨
       (∃ why, decode w = .illFormed why ∧
         ((s.phase = .fault ∧ t = s) ∨ (s.phase ≠ .fault ∧ t = s.raiseFault .illegalCmd)))) := by
  unfold State.accept at h
  split at h
  · refine ⟨‹_›, ?_⟩
    split at h
    · exact .inl ⟨_, ‹_›, exec_effect h⟩
    · refine .inr ⟨_, ‹_›, ?_⟩
      cases h
      by_cases hp : s.phase = .fault
      · exact .inl ⟨hp, State.receiveIllFormed_fault hp⟩
      · exact .inr ⟨hp, State.receiveIllFormed_other hp⟩
  · cases h

/-- Everything a step can do: nothing when no act of the host is to come, an accepted word, or reset. -/
theorem step_next {s t : State} (h : step s = .next t) :
    (s.input = [] ∧ t = s) ∨
    (∃ w rest, s.input = .command w :: rest ∧ State.accept { s with input := rest } w = .next t) ∨
    (∃ rest, s.input = .reset :: rest ∧ t = { State.reset with input := rest }) := by
  unfold step at h
  split at h
  · cases h; exact .inl ⟨‹_›, rfl⟩
  · rename_i e rest he
    cases e with
    | command w => exact .inr (.inl ⟨w, rest, he, h⟩)
    | reset => cases h; exact .inr (.inr ⟨rest, he, rfl⟩)

theorem step_command {s : State} {w : Word} {rest : List HostEvent} (h : s.input = .command w :: rest) :
    step s = State.accept { s with input := rest } w := by
  simp [step, h, State.react]

theorem step_reset {s : State} {rest : List HostEvent} (h : s.input = .reset :: rest) :
    step s = .next { State.reset with input := rest } := by
  simp [step, h, State.react]

@[simp] theorem runFor_zero (s : State) : runFor 0 s = .next s := rfl

/-- A run goes on from what its first step answers. -/
theorem runFor_succ (k : Nat) (s : State) :
    runFor (k + 1) s =
      match step s with
      | .next t => runFor k t
      | .fault r => .fault r
      | .refused r => .refused r := rfl

/-- The model's runs are those of the host's interface. -/
theorem runFor_eq_core_run (k : Nat) (s : State) : runFor k s = Host.Core.run Sys2Proof.core k s := by
  induction k generalizing s with
  | zero => rfl
  | succ k ih =>
    show (match step s with
      | .next t => runFor k t
      | .fault r => .fault r
      | .refused r => .refused r) = Host.Core.run Sys2Proof.core (k + 1) s
    cases h : step s with
    | next t =>
      have h' : Sys2Proof.core.step s = .next t := h
      simp only [Host.Core.run, h', ih t]
    | fault f => cases f
    | refused r =>
      have h' : Sys2Proof.core.step s = .refused r := h
      simp only [Host.Core.run, h']

/-- A run goes on from the state its first step answers. -/
theorem run_succ {s t : State} (k : Nat) (h : step s = .next t) : runFor (k + 1) s = runFor k t := by
  rw [runFor_succ, h]

/-- A run whose first act is a well-formed command that answers a next state. -/
theorem run_command {s t : State} {i : Instr} {rest : List HostEvent} (k : Nat)
    (hi : s.input = .command (encode i) :: rest) (hw : s.widthDefined = true)
    (hd : decode (encode i) = .command i) (he : Effect i { s with input := rest } t) :
    runFor (k + 1) s = runFor k t := by
  refine run_succ k ?_
  rw [step_command hi, State.accept_command (s := { s with input := rest }) hw hd, he.exec_eq]

/-- Runs compose. -/
theorem run_add {s t : State} (j k : Nat) (h : runFor j s = .next t) :
    runFor (j + k) s = runFor k t := by
  induction j generalizing s with
  | zero => cases h; simp
  | succ j ih =>
    rw [runFor_succ] at h
    split at h
    · rename_i u hu
      rw [Nat.succ_add, run_succ (j + k) hu, ih h]
    · cases h
    · cases h

end Sys2Proof.Machine
end

