-- ==== Sys2Proof/Laws/Sums.lean ====
section
/-! SUPPORT. The two sums: bounds, and how a run of the accumulator splits. -/

namespace Sys2Proof.Machine

theorem accStep_fst (s1 s2 : Nat) (b : Bool) : (accStep s1 s2 b).1 = (s1 + b.toNat) % 255 := rfl

theorem accStep_snd (s1 s2 : Nat) (b : Bool) :
    (accStep s1 s2 b).2 = (s2 + (s1 + b.toNat) % 255) % 255 := rfl

theorem accStep_fst_lt (s1 s2 : Nat) (b : Bool) : (accStep s1 s2 b).1 < 255 := by
  rw [accStep_fst]; omega

theorem accStep_snd_lt (s1 s2 : Nat) (b : Bool) : (accStep s1 s2 b).2 < 255 := by
  rw [accStep_snd]; omega

@[simp] theorem accRun_nil (s1 s2 : Nat) : accRun s1 s2 [] = (s1, s2) := rfl

@[simp] theorem accRun_cons (s1 s2 : Nat) (b : Bool) (p : BitSeq) :
    accRun s1 s2 (b :: p) = accRun (accStep s1 s2 b).1 (accStep s1 s2 b).2 p := rfl

/-- A run over a concatenation is a run over the first part and then over the second. -/
theorem accRun_append (p q : BitSeq) (s1 s2 : Nat) :
    accRun s1 s2 (p ++ q) = accRun (accRun s1 s2 p).1 (accRun s1 s2 p).2 q := by
  induction p generalizing s1 s2 with
  | nil => rfl
  | cons b p ih => simpa using ih _ _

/-- Sums in range stay in range over a whole run (10_state.md R12). -/
theorem accRun_lt (p : BitSeq) (s1 s2 : Nat) (h1 : s1 < 255) (h2 : s2 < 255) :
    (accRun s1 s2 p).1 < 255 ∧ (accRun s1 s2 p).2 < 255 := by
  induction p generalizing s1 s2 with
  | nil => exact ⟨h1, h2⟩
  | cons b p ih => exact ih _ _ (accStep_fst_lt ..) (accStep_snd_lt ..)

/-- A sum in range is kept whole by its 8-bit register. -/
theorem toNat_sum {x : Nat} (h : x < 255) : (BitVec.ofNat 8 x).toNat = x := by
  simp only [BitVec.toNat_ofNat]; omega

/-- What feeding one bit leaves in the first sum. -/
theorem State.feed_sum1_toNat (b : Bool) (s : State) :
    (s.feed b).sum1.toNat = (accStep s.sum1.toNat s.sum2.toNat b).1 :=
  toNat_sum (accStep_fst_lt ..)

/-- What feeding one bit leaves in the second sum. -/
theorem State.feed_sum2_toNat (b : Bool) (s : State) :
    (s.feed b).sum2.toNat = (accStep s.sum1.toNat s.sum2.toNat b).2 :=
  toNat_sum (accStep_snd_lt ..)

end Sys2Proof.Machine
end

