-- ==== Sys2Proof/Laws/Run.lean ====
section
/-! SUPPORT. Runs of BIT commands: the sums of a payload in mode COMPUTE, the window and the sums of a
message in mode VERIFY, each induction done once. -/

namespace Sys2Proof.Machine

@[simp] theorem present_nil : present [] = [] := rfl
@[simp] theorem present_cons (i : Instr) (cs : List Instr) :
    present (i :: cs) = .command (encode i) :: present cs := rfl
@[simp] theorem present_append (cs ds : List Instr) : present (cs ++ ds) = present cs ++ present ds := by
  simp [present]
@[simp] theorem bitsCommands_nil : bitsCommands [] = [] := rfl
@[simp] theorem bitsCommands_cons (b : Bool) (p : BitSeq) :
    bitsCommands (b :: p) = .bit b :: bitsCommands p := rfl
@[simp] theorem bitsCommands_length (p : BitSeq) : (bitsCommands p).length = p.length := by
  simp [bitsCommands]

/-- The bits of `p` sent in mode COMPUTE leave the sums of `p` and change nothing else (R68, R63). -/
theorem run_bits_compute (p : BitSeq) (s : State) (rest : List HostEvent) (hp : s.phase = .run)
    (hm : s.mode = .compute) (hw : s.widthDefined = true) (h1 : s.sum1.toNat < 255)
    (h2 : s.sum2.toNat < 255) (hi : s.input = present (bitsCommands p) ++ rest) :
    runFor p.length s = .next
      { s with
        sum1 := BitVec.ofNat 8 (accRun s.sum1.toNat s.sum2.toNat p).1
        sum2 := BitVec.ofNat 8 (accRun s.sum1.toNat s.sum2.toNat p).2
        input := rest } := by
  induction p generalizing s with
  | nil =>
    obtain rfl : s.input = rest := by simpa using hi
    simp
  | cons b p ih =>
    simp only [List.length_cons]
    rw [run_command (t := State.feed b { s with input := present (bitsCommands p) ++ rest }) p.length
      (by simpa using hi) hw (decode_encode_bit b) (.bitCompute hp hm)]
    rw [ih (State.feed b { s with input := present (bitsCommands p) ++ rest }) hp hm hw]
    · simp only [State.feed_sum1_toNat, State.feed_sum2_toNat, accRun_cons]
      rfl
    · rw [State.feed_sum1_toNat]; exact accStep_fst_lt ..
    · rw [State.feed_sum2_toNat]; exact accStep_snd_lt ..
    · rfl

/-- The registers of an open verify transaction that has received `r` (R72). -/
structure Received (r : BitSeq) (s : State) : Prop where
  phase : s.phase = .run
  mode : s.mode = .verify
  cnt : s.cnt = min r.length s.w
  tail : s.tail = value (r.drop (r.length - s.w))
  sums : (s.sum1.toNat, s.sum2.toNat) = accRun 0 0 (r.take (r.length - s.w))

/-- After STARTV nothing has been received. -/
theorem received_nil (s : State) : Received [] (s.openTransaction .verify) where
  phase := rfl
  mode := rfl
  cnt := by simp
  tail := by simp
  sums := by simp

/-- The window before a bit that pushes one out: the oldest bit is its first symbol. -/
theorem value_testBit_first (b : Bool) (l : BitSeq) : (value (b :: l)).testBit l.length = b := by
  have h := value_lt_two_pow l
  rw [value, Nat.mul_comm, Nat.testBit_two_pow_mul_add _ h]
  cases b <;> simp

/-- A bit received is the last of what has been received (R69). -/
theorem received_bit {r : BitSeq} {s : State} (b : Bool) (hs : Received r s) (hw : 2 ≤ s.w) :
    Received (r ++ [b]) (s.receiveMessageBit b) := by
  have hlen : (r ++ [b]).length = r.length + 1 := by simp
  unfold State.receiveMessageBit State.windowFilling
  by_cases hc : s.cnt < s.w
  · have hlt : r.length < s.w := by have := hs.cnt; omega
    have htail : s.tail = value r := by simpa [Nat.sub_eq_zero_of_le hlt.le] using hs.tail
    have hz : (r ++ [b]).length - s.w = 0 := by omega
    have hsums := hs.sums
    rw [Nat.sub_eq_zero_of_le hlt.le] at hsums
    have hfit : 2 * value r + b.toNat < 2 ^ s.w := by
      have := value_lt_two_pow (r ++ [b])
      rw [value_concat, hlen] at this
      exact lt_of_lt_of_le this (Nat.pow_le_pow_right (by decide) hlt)
    simp only [hc, decide_true, if_true]
    exact
      { phase := hs.phase
        mode := hs.mode
        cnt := by simp [hs.cnt]; omega
        tail := by
          simp only [State.pushTail_tail, State.countBit_tail, State.countBit_w, State.pushTail_w, hz,
            List.drop_zero, shift_or_bit, htail, value_concat]
          exact Nat.mod_eq_of_lt hfit
        sums := by
          simp only [State.pushTail_sum1, State.pushTail_sum2, State.countBit_sum1, State.countBit_sum2,
            State.pushTail_w, State.countBit_w, hz]
          simpa using hsums }
  · have hge : s.w ≤ r.length := by have := hs.cnt; omega
    have hsub : (r ++ [b]).length - s.w = (r.length - s.w) + 1 := by omega
    have hklt : r.length - s.w < r.length := by omega
    have hdrop : r.drop (r.length - s.w) =
        r[r.length - s.w] :: r.drop (r.length - s.w + 1) := List.drop_eq_getElem_cons hklt
    have hrest : (r.drop (r.length - s.w + 1)).length = s.w - 1 := by simp; omega
    have hold : s.oldestBit = r[r.length - s.w] := by
      rw [State.oldestBit, hs.tail, hdrop, ← hrest]
      exact value_testBit_first _ _
    simp only [hc, decide_false, Bool.false_eq_true, if_false]
    exact
      { phase := hs.phase
        mode := hs.mode
        cnt := by simp [hs.cnt]; omega
        tail := by
          have hv : value (r.drop (r.length - s.w)) =
              r[r.length - s.w].toNat * 2 ^ (s.w - 1) + value (r.drop (r.length - s.w + 1)) := by
            rw [hdrop, value, hrest]
          have hfit := value_lt_two_pow (r.drop (r.length - s.w + 1) ++ [b])
          rw [value_concat, List.length_append, hrest] at hfit
          have hpow : 2 ^ s.w = 2 * 2 ^ (s.w - 1) := by
            rw [← Nat.pow_succ']; congr 1; omega
          have hfit' : 2 * value (r.drop (r.length - s.w + 1)) + b.toNat < 2 ^ s.w := by
            have : s.w - 1 + [b].length = s.w := by simp; omega
            rwa [this] at hfit
          simp only [State.pushTail_tail, State.feed_tail, State.feed_w, State.pushTail_w, hsub,
            shift_or_bit, hs.tail, hv]
          rw [List.drop_append_of_le_length (by omega), value_concat]
          rw [show 2 * (r[r.length - s.w].toNat * 2 ^ (s.w - 1) + value (r.drop (r.length - s.w + 1)))
              + b.toNat = 2 * value (r.drop (r.length - s.w + 1)) + b.toNat
              + 2 ^ s.w * r[r.length - s.w].toNat by rw [hpow]; ring]
          rw [Nat.add_mul_mod_self_left, Nat.mod_eq_of_lt hfit']
        sums := by
          have h1 : s.sum1.toNat = (accRun 0 0 (r.take (r.length - s.w))).1 := by rw [← hs.sums]
          have h2 : s.sum2.toNat = (accRun 0 0 (r.take (r.length - s.w))).2 := by rw [← hs.sums]
          simp only [State.pushTail_sum1, State.pushTail_sum2, State.feed_sum1_toNat,
            State.feed_sum2_toNat, State.pushTail_w, State.feed_w, hsub, hold]
          rw [List.take_append_of_le_length (by omega), List.take_add_one,
            List.getElem?_eq_getElem hklt]
          rw [accRun_append, ← h1, ← h2]
          rfl }

/-- The bits of `m` sent in mode VERIFY (R72): what they leave, and that nothing else is touched. -/
theorem run_bits_verify (m : BitSeq) (r : BitSeq) (s : State) (rest : List HostEvent)
    (hs : Received r s) (hw : s.widthDefined = true) (hi : s.input = present (bitsCommands m) ++ rest) :
    ∃ t, runFor m.length s = .next t ∧ Received (r ++ m) t ∧
      t = { s with sum1 := t.sum1, sum2 := t.sum2, tail := t.tail, cnt := t.cnt, input := rest } := by
  induction m generalizing r s with
  | nil =>
    obtain rfl : s.input = rest := by simpa using hi
    exact ⟨s, rfl, by simpa using hs, rfl⟩
  | cons b m ih =>
    have h2 := ((State.widthDefined_iff s).mp hw).1
    let s0 : State := { s with input := present (bitsCommands m) ++ rest }
    have hs0 : Received r s0 := ⟨hs.phase, hs.mode, hs.cnt, hs.tail, hs.sums⟩
    have hbit : Effect (.bit b) s0 (s0.receiveMessageBit b) := by
      apply exec_effect
      simp [exec, execBit, hs0.phase, hs0.mode]
    have hrun := run_command (t := s0.receiveMessageBit b) m.length (by simpa using hi) hw
      (decode_encode_bit b) hbit
    have hframe : s0.receiveMessageBit b =
        { s0 with
          sum1 := (s0.receiveMessageBit b).sum1, sum2 := (s0.receiveMessageBit b).sum2
          tail := (s0.receiveMessageBit b).tail, cnt := (s0.receiveMessageBit b).cnt } := by
      unfold State.receiveMessageBit
      split <;> rfl
    obtain ⟨t, ht, hrec, hfr⟩ := ih (r ++ [b]) (s0.receiveMessageBit b) (received_bit b hs0 h2)
      (by rw [hframe]; exact hw) (by rw [hframe])
    refine ⟨t, by rw [List.length_cons, hrun, ht], by simpa using hrec, ?_⟩
    rw [hfr, hframe]

end Sys2Proof.Machine
end

