-- ==== Sys2Proof/Tests/Slice0.lean ====
section
/-! SUPPORT. Tests of the model: expected values are the spec's (95_test_vectors.md and the rules' own
examples), and witnesses that the statements' hypotheses can be met. -/

namespace Sys2Proof.Tests

open Sys2Proof Sys2Proof.Machine

/-- The next state, where there is one. -/
def after (o : Host.Outcome State Fault Refusal) : Option State :=
  match o with
  | .next s => some s
  | .fault _ => none
  | .refused _ => none

/-- The refusal, where there is one. -/
def refusal (o : Host.Outcome State Fault Refusal) : Option Refusal :=
  match o with
  | .next _ => none
  | .fault _ => none
  | .refused r => some r

/-- The reset state in another phase. -/
def atPhase (p : Phase) : State :=
  { State.reset with phase := p, cause := if p = .fault then some .seqErr else none }

/-- An open transaction. -/
def opened (m : Mode) (width : BitVec 12) (s1 s2 : Byte) (tail cnt : Nat) : State :=
  { State.reset with
    phase := .run, mode := m, width := width, sum1 := s1, sum2 := s2, tail := tail, cnt := cnt }

/-- A state with the host's acts still to come. -/
def fed (s : State) (es : List HostEvent) : State := { s with input := es }

/-! ### Well-formedness, decoding, encoding (30_encoding.md R44, 95_test_vectors.md section 7.1) -/

theorem test_wide_operand_is_ill_formed : ¬ WellFormed (.setw 4096) := by decide
theorem test_odd_operand_is_well_formed : WellFormed (.setw 4095) := by decide

theorem test_decode_setw : decode 0b0001000000001000#16 = .command (.setw 8) := by decide
theorem test_decode_setw_top : decode 0b0001111111111111#16 = .command (.setw 4095) := by decide
theorem test_decode_startc : decode 0b0010000000000000#16 = .command .startc := by decide
theorem test_decode_startv : decode 0b0010000000000001#16 = .command .startv := by decide
theorem test_decode_bit0 : decode 0b0011000000000000#16 = .command (.bit false) := by decide
theorem test_decode_bit1 : decode 0b0011000000000001#16 = .command (.bit true) := by decide
theorem test_decode_fin : decode 0b0100000000000000#16 = .command .fin := by decide
theorem test_decode_ill :
    [0x0000#16, 0x0FFF#16, 0x5000#16, 0x8000#16, 0xFFFF#16].map decode =
      List.replicate 5 (.illFormed .unknownOpcode) := by decide
theorem test_decode_reserved :
    [0x2002#16, 0x2FFF#16, 0x2801#16, 0x3002#16, 0x3003#16, 0x3801#16, 0x4001#16, 0x4800#16].map decode =
      List.replicate 8 (.illFormed .reservedBitSet) := by decide
theorem test_encode_setw : encode (.setw 8) = 0x1008#16 := by decide
theorem test_table_words :
    [decodeTableWord 16 0x1010, decodeTableWord 16 0x4000, decodeTableWord 16 0x0000] =
      [some (.setw 16), some .fin, none] := by decide

/-! ### The pure functions (95_test_vectors.md sections 2 to 4) -/

theorem test_sum_wraps_at_255 : accStep 254 0 true = (0, 0) := by decide            -- V3
theorem test_second_sum_wraps : accStep 22 253 true = (23, 21) := by decide         -- V6
theorem test_run_of_eight : accRun 0 0 [true, false, true, true, false, false, true, true] = (5, 22) := by
  decide                                                                            -- V17
theorem test_pack_narrow : pack 22 253 14 = 0x3E96 := by decide                     -- V35
theorem test_pack_wide : pack 254 1 64 = 0x00000001000000FE := by decide            -- V46
theorem test_value : value [false, true, true, false] = 6 := by decide              -- section 4.3
theorem test_compute_1010 : compute [true, false, true, false] 16 =
    [false, false, false, false, false, true, true, false,
      false, false, false, false, false, false, true, false] := by decide           -- S1
theorem test_verify_too_short : verify [true] 2 = .widthError := by decide          -- V73
theorem test_verify_mismatch : verify [true, true, false, false, true, true, true] 4 =
    .ok false [false, true, true, false] [false, true, true, true] := by decide     -- V71

/-! ### The commands, one step each -/

theorem test_setw_8 : (after (exec (.setw 8) State.reset)).map (fun t => (t.w, t.phase, t.status)) =
    some (8, .idle, 0x00#8) := by decide                                            -- V48
theorem test_setw_66_of_64 : (after (setWidthAt 64 66 State.reset)).map (fun t => (t.w, t.status)) =
    some (16, 0x63#8) := by decide                                                  -- V50
theorem test_setw_64_of_64 : (after (setWidthAt 64 64 State.reset)).map State.w = some 64 := by decide -- V49
theorem test_setw_odd_refused : refusal (exec (.setw 15) State.reset) = some .widthUnspecified := by
  decide                                                                            -- V52
theorem test_setw_odd_in_run : (after (exec (.setw 15) (atPhase .run))).map (·.status) = some 0x43#8 := by
  decide                                                                            -- V55
theorem test_startc_status : (after (exec .startc State.reset)).map (·.status) = some 0x01#8 := by decide
theorem test_startv_leaves_fault :
    (after (exec .startv (atPhase .fault))).map (fun t => (t.status, t.cause)) = some (0x05#8, none) := by
  decide                                                                            -- V89
theorem test_bit_compute : (after (exec (.bit true) (opened .compute 16#12 1#8 2#8 0 0))).map
    (fun t => (t.sum1, t.sum2)) = some (2#8, 4#8) := by decide                       -- R68
theorem test_bit_slides : (after (exec (.bit true) (opened .verify 4#12 0#8 0#8 0b1100 4))).map
    (fun t => (t.sum1, t.sum2, t.tail, t.cnt)) = some (1#8, 1#8, 0b1001, 4) := by decide -- R69
theorem test_fin_compute : (after (exec .fin (opened .compute 16#12 2#8 6#8 0 0))).map
    (fun t => (t.computed, t.status)) = some (0x0602, 0x02#8) := by decide           -- R81
theorem test_fin_mismatch : (after (exec .fin (opened .verify 16#12 2#8 6#8 0x0603 16))).map
    (fun t => (t.computed, t.claimed, t.status)) = some (0x0602, 0x0603, 0x06#8) := by decide -- S5
theorem test_fin_short : (after (exec .fin (opened .verify 16#12 0#8 0#8 0x000B 5))).map
    (fun t => (t.computed, t.tail, t.status)) = some (0, 0x000B, 0x16#8) := by decide -- P3
theorem test_bit_in_idle : (after (exec (.bit true) State.reset)).map (·.status) = some 0x43#8 := by
  decide                                                                            -- V82

/-! ### The step -/

theorem test_ill_formed_in_idle : (after (step (State.reset.withFetchWord 16 0x3002))).map (·.status) =
    some 0x23#8 := by decide                                                        -- V84, V85
theorem test_word_is_taken : (after (step (State.reset.withFetchWord 16 0x2001))).map
    (fun t => (t.status, t.input)) = some (0x05#8, []) := by decide
theorem test_dropped_in_fault : after (step (fed (atPhase .fault) [.command 0x1000#16])) =
    some (atPhase .fault) := by decide                                              -- V58
theorem test_reset_act : after (step (fed (opened .verify 4#12 3#8 4#8 5 3) [.reset])) =
    some State.reset := by decide                                                   -- V94

/-! ### The assembler -/

theorem test_assemble_setw : assembleWords "SETW 8 ; width".toList = some [0x1008#16] := by decide
theorem test_assemble_hex : assembleWords "SETW 0xFFF".toList = some [0x1FFF#16] := by decide
theorem test_assemble_too_large : assembleWords "SETW 4096".toList = none := by decide
theorem test_assemble_verify : assembleWords "VERIFY \"10\", 2".toList =
    some [0x1002#16, 0x2001#16, 0x3001#16, 0x3000#16, 0x4000#16] := by decide
theorem test_assemble_rejects : assembleLine "BIT 2".toList = none := by decide

/-! ### Witnesses: the hypotheses of each statement can be met, each clause at a boundary -/

theorem witness_EncodedCommandDecodesToItself :
    WellFormed (.setw 0) ∧ WellFormed (.setw 4095) ∧ WellFormed (.bit true) ∧ WellFormed .startc ∧
      WellFormed .startv ∧ WellFormed .fin := by decide

theorem witness_DecodedWordIsItsCommandsEncoding : decode 0x1FFF#16 = .command (.setw 4095) := by decide

theorem witness_DecodingFollowsTheOneMatchingRow :
    rowSetw.matchesWord 0x1000#16 = true ∧ rowStartc.matchesWord 0x2000#16 = true ∧
      rowStartv.matchesWord 0x2001#16 = true ∧ rowBit.matchesWord 0x3001#16 = true ∧
      rowFin.matchesWord 0x4000#16 = true := by decide

theorem witness_IllFormedWordsRaiseIllegalCmd :
    State.reset.widthDefined = true ∧ State.reset.phase ≠ .fault ∧
      (atPhase .fault).widthDefined = true ∧ (atPhase .fault).phase = .fault ∧
      decode 0x2002#16 = .illFormed .reservedBitSet := by decide

theorem witness_StepExecutesTheAcceptedCommand :
    (fed State.reset [.command 0x4000#16]).input = .command 0x4000#16 :: [] ∧
      (fed State.reset [.command 0x4000#16]).widthDefined = true ∧
      decode 0x4000#16 = .command .fin := by decide

theorem witness_StepWithoutHostActChangesNothing : State.reset.input = [] := by decide

theorem witness_ResetIsEnabledInEveryState :
    (fed (opened .verify 3#12 9#8 9#8 1 1) [.reset]).input = .reset :: [] := by decide

theorem witness_ResetAndStartValuesOfEveryRegister :
    ((Instr.startc = .startc ∧ Mode.compute = .compute) ∨ (Instr.startc = .startv ∧ Mode.compute = .verify)) ∧
    ((Instr.startv = .startc ∧ Mode.verify = .compute) ∨ (Instr.startv = .startv ∧ Mode.verify = .verify)) := by
  decide

/-- A short verify transaction meets the invariant: window filling. -/
theorem filling_inv : (opened .verify 4#12 0#8 0#8 0b101 3).Inv := by
  constructor <;> simp [opened, State.reset, State.w]
  · have := Config.wmax_ge; omega
  · have := Config.wmax_ge; omega

/-- A verify transaction with a full window meets the invariant. -/
theorem full_inv : (opened .verify 4#12 1#8 1#8 0b0101 4).Inv := by
  constructor <;> simp [opened, State.reset, State.w]
  · have := Config.wmax_ge; omega
  · have := Config.wmax_ge; omega

/-- A compute transaction meets the invariant. -/
theorem computing_inv : (opened .compute 16#12 2#8 6#8 0 0).Inv := by
  constructor <;> simp [opened, State.reset, State.w]
  · have := Config.wmax_ge; omega

/-- The reset state with acts to come meets the invariant. -/
theorem fed_reset_inv (es : List HostEvent) : (fed State.reset es).Inv := by
  constructor <;> simp [fed, State.reset, State.w]
  · have := Config.wmax_ge; omega

theorem witness_EveryStepKeepsTheInvariant :
    (fed State.reset [.command 0x2001#16]).Inv ∧
      ∃ t, step (fed State.reset [.command 0x2001#16]) = .next t := ⟨fed_reset_inv _, _, rfl⟩

theorem witness_DutifulHostActsAreAllExecuted :
    (fed State.reset [.command 0x1008#16, .command 0xFFFF#16, .reset]).Inv ∧
      (fed State.reset [.command 0x1008#16, .command 0xFFFF#16, .reset]).input.all dutifulEvent = true :=
  ⟨fed_reset_inv _, by decide⟩

theorem witness_OutputsShowTheRegistersAndHideTheWindow : (opened .verify 4#12 1#8 1#8 0b0101 4).Inv :=
  full_inv

theorem witness_SetwWritesTheWidthAndNothingElse :
    ((atPhase .idle).phase = .idle ∨ (atPhase .idle).phase = .done) ∧ 2 ≤ 2 ∧ 2 % 2 = 0 ∧ 2 ≤ Config.wmax ∧
      ((atPhase .done).phase = .idle ∨ (atPhase .done).phase = .done) ∧ 2 ≤ Config.wmax ∧
      Config.wmax % 2 = 0 ∧ Config.wmax ≤ Config.wmax := by
  have := Config.wmax_ge
  have := Config.wmax_even
  refine ⟨by decide, by decide, by decide, ?_, by decide, ?_, ?_, ?_⟩ <;> omega

theorem witness_OversizeWidthRaisesOperandErr :
    ((atPhase .idle).phase = .idle ∨ (atPhase .idle).phase = .done) ∧ Config.wmax < Config.wmax + 1 ∧
      Config.wmax < 4095 := by
  have := Config.wmax_le
  refine ⟨by decide, ?_, ?_⟩ <;> omega

theorem witness_UnspecifiedWidthHasNoSuccessor :
    ((atPhase .done).phase = .idle ∨ (atPhase .done).phase = .done) ∧
      (0 ≤ Config.wmax ∧ (0 = 0 ∨ 0 % 2 = 1)) ∧
      (Config.wmax - 1 ≤ Config.wmax ∧ (Config.wmax - 1 = 0 ∨ (Config.wmax - 1) % 2 = 1)) := by
  have := Config.wmax_ge
  have := Config.wmax_even
  refine ⟨by decide, by omega, by omega⟩

theorem witness_SetwOutsideIdleAndDone :
    (atPhase .run).phase = .run ∧ (atPhase .fault).phase = .fault := by decide

theorem witness_UndefinedWidthRefusesEveryWord :
    ((opened .verify 0#12 0#8 0#8 0 0).w = 0 ∨ (opened .verify 0#12 0#8 0#8 0 0).w % 2 = 1) ∧
      ((opened .verify 7#12 0#8 0#8 0 0).w = 0 ∨ (opened .verify 7#12 0#8 0#8 0 0).w % 2 = 1) ∧
      (fed (opened .verify 7#12 0#8 0#8 0 0) [.command 0x2000#16]).input = .command 0x2000#16 :: [] ∧
      (fed (opened .verify 7#12 0#8 0#8 0 0) [.reset]).input = .reset :: [] := by decide

theorem witness_OnlyTheUnspecifiedWidthIsRefused : State.reset.widthDefined = true := by decide

theorem witness_WidthIsWrittenOnlyBySetw :
    (∃ t, exec (.setw 2) State.reset = .next t) ∧ ∃ t, exec .fin State.reset = .next t :=
  ⟨⟨_, rfl⟩, ⟨_, rfl⟩⟩

theorem witness_StartcOpensAComputeTransaction :
    (∃ t, exec .startc (atPhase .fault) = .next t) ∧ ∃ t, exec .startc State.reset = .next t :=
  ⟨⟨_, rfl⟩, ⟨_, rfl⟩⟩

theorem witness_StartvOpensAVerifyTransaction :
    (∃ t, exec .startc (atPhase .done) = .next t) ∧ (∃ t, exec .startv (atPhase .run) = .next t) ∧
      ∃ t, exec .startv State.reset = .next t := ⟨⟨_, rfl⟩, ⟨_, rfl⟩, ⟨_, rfl⟩⟩

theorem witness_NothingButWidthOutlivesAStart :
    (fed (atPhase .fault) [.command (encode .startv)]).width = (fed State.reset [.command (encode .startv)]).width ∧
      (fed (atPhase .fault) [.command (encode .startv)]).input = .command (encode .startv) :: [] ∧
      (fed State.reset [.command (encode .startv)]).input =
        (fed (atPhase .fault) [.command (encode .startv)]).input ∧
      (fed (atPhase .done) [.command (encode .startc)]).input = .command (encode .startc) :: [] := by decide

theorem witness_ComputeBitGoesToTheSums :
    (opened .compute 16#12 254#8 0#8 0 0).phase = .run ∧ (opened .compute 16#12 254#8 0#8 0 0).mode = .compute ∧
      (fed State.reset (present (.startc :: bitsCommands [true]) ++ [.reset])).widthDefined = true ∧
      (fed State.reset (present (.startc :: bitsCommands [true]) ++ [.reset])).input =
        present (.startc :: bitsCommands [true]) ++ [.reset] := by decide

theorem witness_VerifyBitEntersTheTailWindow :
    ((opened .verify 2#12 0#8 0#8 1 1).phase = .run ∧ (opened .verify 2#12 0#8 0#8 1 1).mode = .verify ∧
      (opened .verify 2#12 0#8 0#8 1 1).widthDefined = true ∧
      (opened .verify 2#12 0#8 0#8 1 1).cnt < (opened .verify 2#12 0#8 0#8 1 1).w) ∧
    ((opened .verify 2#12 0#8 0#8 3 2).phase = .run ∧ (opened .verify 2#12 0#8 0#8 3 2).mode = .verify ∧
      (opened .verify 2#12 0#8 0#8 3 2).widthDefined = true ∧
      (opened .verify 2#12 0#8 0#8 3 2).cnt = (opened .verify 2#12 0#8 0#8 3 2).w) := by decide

theorem witness_BitIsGatedByThePhase :
    ((atPhase .idle).phase = .idle ∨ (atPhase .idle).phase = .done) ∧
      ((atPhase .done).phase = .idle ∨ (atPhase .done).phase = .done) ∧
      (atPhase .fault).phase = .fault ∧ (atPhase .run).phase = .run ∧
      (after (exec (.bit true) (atPhase .run))).isSome = true := by decide

theorem witness_BitWritesOnlySumsAndWindow :
    (∃ t, exec (.bit true) (opened .compute 16#12 2#8 6#8 0 0) = .next t) ∧
      (∃ t, exec (.bit true) (opened .verify 4#12 0#8 0#8 0b101 3) = .next t) ∧
      (opened .verify 4#12 0#8 0#8 0b101 3).cnt < (opened .verify 4#12 0#8 0#8 0b101 3).w ∧
      (∃ t, exec (.bit true) (atPhase .idle) = .next t) ∧ (atPhase .idle).phase ≠ .run :=
  ⟨⟨_, rfl⟩, ⟨_, rfl⟩, by decide, ⟨_, rfl⟩, by decide⟩

theorem witness_AccumulatorStepUsesTheNewFirstSum : 254 ≤ 254 ∧ 0 ≤ 254 := by decide

theorem witness_AdderComputesTheModularStep : 254 ≤ 254 ∧ 0 ≤ 254 := by decide

theorem witness_SumsHaveTheirClosedForms : [true, false].Perm [false, true] := by decide

theorem witness_ConsequencesOfTheClosedForms : 254 ≤ 254 ∧ 0 < ([true] : BitSeq).length := by decide

theorem witness_VerifyTransactionSplitsTheMessage :
    (fed State.reset (present (.startv :: bitsCommands [true, false]) ++ [.reset])).widthDefined = true ∧
      (fed State.reset (present (.startv :: bitsCommands [true, false]) ++ [.reset])).input =
        present (.startv :: bitsCommands [true, false]) ++ [.reset] := by decide

theorem witness_FinDeliversTheChecksum :
    (opened .compute 16#12 2#8 6#8 0 0).Inv ∧ (opened .compute 16#12 2#8 6#8 0 0).phase = .run ∧
      (opened .compute 16#12 2#8 6#8 0 0).mode = .compute ∧
      (opened .compute 16#12 2#8 6#8 0 0).widthDefined = true ∧
      (∃ t, exec .fin (opened .compute 16#12 2#8 6#8 0 0) = .next t) ∧
      (opened .compute 2#12 0#8 0#8 0 0).widthDefined = true ∧ (opened .compute 2#12 0#8 0#8 0 0).sum1 = 0#8 ∧
      (opened .compute 2#12 0#8 0#8 0 0).sum2 = 0#8 ∧
      ∃ t, exec .fin (opened .compute 2#12 0#8 0#8 0 0) = .next t :=
  ⟨computing_inv, by decide, by decide, by decide, ⟨_, rfl⟩, by decide, by decide, by decide, ⟨_, rfl⟩⟩

theorem witness_FinDeliversTheVerdict :
    (opened .verify 4#12 1#8 1#8 0b0101 4).Inv ∧ (opened .verify 4#12 1#8 1#8 0b0101 4).phase = .run ∧
      (opened .verify 4#12 1#8 1#8 0b0101 4).mode = .verify ∧
      (opened .verify 4#12 1#8 1#8 0b0101 4).cnt = (opened .verify 4#12 1#8 1#8 0b0101 4).w ∧
      (opened .verify 4#12 1#8 1#8 0b0101 4).widthDefined = true ∧
      ∃ t, exec .fin (opened .verify 4#12 1#8 1#8 0b0101 4) = .next t :=
  ⟨full_inv, by decide, by decide, by decide, by decide, ⟨_, rfl⟩⟩

theorem witness_FinReportsAShortMessage :
    (opened .verify 4#12 0#8 0#8 0b101 3).Inv ∧ (opened .verify 4#12 0#8 0#8 0b101 3).phase = .run ∧
      (opened .verify 4#12 0#8 0#8 0b101 3).mode = .verify ∧
      (opened .verify 4#12 0#8 0#8 0b101 3).cnt < (opened .verify 4#12 0#8 0#8 0b101 3).w ∧
      (opened .verify 4#12 0#8 0#8 0b101 3).widthDefined = true ∧
      ∃ t, exec .fin (opened .verify 4#12 0#8 0#8 0b101 3) = .next t :=
  ⟨filling_inv, by decide, by decide, by decide, by decide, ⟨_, rfl⟩⟩

theorem witness_FinIsGatedByThePhase :
    ((atPhase .idle).phase = .idle ∨ (atPhase .idle).phase = .done) ∧
      ((atPhase .done).phase = .idle ∨ (atPhase .done).phase = .done) ∧
      (atPhase .fault).phase = .fault ∧ (atPhase .run).phase = .run ∧
      (after (exec .startc State.reset)).isSome = true ∧ State.reset.widthDefined = true ∧
      (after (exec .startv State.reset)).isSome = true := by decide

theorem witness_WideWordHoldsBothSums : 254 ≤ 254 ∧ 16 ≤ 16 ∧ 16 % 2 = 0 := by decide

theorem witness_NarrowWordOverlapsTheSums :
    254 ≤ 254 ∧ 2 ≤ 14 ∧ 14 < 16 ∧ 14 % 2 = 0 ∧ 13 < 14 ∧ 14 ≤ 14 ∧ 2 ≤ 2 ∧ 2 < 16 ∧ 2 % 2 = 0 := by decide

theorem witness_RenderAndValueAreInverse : 0xFFFF < 2 ^ 16 ∧ 15 < (render 0xFFFF 16).length := by decide

theorem witness_PackedWordFitsItsWidth : 254 ≤ 254 ∧ 2 ≤ 2 ∧ 2 % 2 = 0 ∧ 16 ≤ 16 ∧ 16 % 2 = 0 := by decide

theorem witness_ComparatorIsStringEquality :
    3 < 2 ^ 2 ∧ 0 < 2 ^ 2 ∧ (opened .verify 4#12 1#8 1#8 0b0101 4).Inv ∧
      (opened .verify 4#12 1#8 1#8 0b0101 4).cnt = (opened .verify 4#12 1#8 1#8 0b0101 4).w ∧
      ∃ t, exec .fin (opened .verify 4#12 1#8 1#8 0b0101 4) = .next t :=
  ⟨by decide, by decide, full_inv, by decide, ⟨_, rfl⟩⟩

theorem witness_FaultEntryWritesCauseAndPhase :
    State.reset.phase ≠ .fault ∧ ∃ t, State.reset.accept 0x4000#16 = .next t ∧ t.phase = .fault :=
  ⟨by decide, _, rfl, rfl⟩

theorem witness_EachFaultHasItsCauses :
    State.reset.phase ≠ .fault ∧ State.reset.cause = none ∧
      (after (State.reset.accept 0x0000#16)).map (·.cause) = some (some .illegalCmd) ∧
      (after (State.reset.accept 0x3001#16)).map (·.cause) = some (some .seqErr) ∧
      ∃ t, State.reset.accept 0x1FFF#16 = .next t ∧ t.cause = some .operandErr := by
  have hd : decode 0x1FFF#16 = .command (.setw 4095) := by decide
  have he : Effect (.setw 4095) State.reset (State.reset.raiseFault .operandErr) :=
    .setwTooLarge (.inl rfl) (by have := Config.wmax_le; omega)
  refine ⟨by decide, by decide, by decide, by decide, State.reset.raiseFault .operandErr, ?_, by simp⟩
  rw [State.accept_command (by decide) hd, he.exec_eq]

theorem witness_FaultPhaseDropsAllButStart :
    (atPhase .fault).widthDefined = true ∧ (atPhase .fault).phase = .fault ∧ 0x1000#16 ≠ 0x2000#16 ∧
      0x1000#16 ≠ 0x2001#16 := by decide

theorem witness_FaultIsLeftByStartOrReset :
    (fed (atPhase .fault) [.command 0x2000#16]).phase = .fault ∧
      (∃ t, step (fed (atPhase .fault) [.command 0x2000#16]) = .next t ∧ t.phase ≠ .fault) ∧
      (∃ t, step (fed (atPhase .fault) [.command 0x2001#16]) = .next t ∧ t.phase ≠ .fault) ∧
      ∃ t, step (fed (atPhase .fault) [.reset]) = .next t ∧ t.phase ≠ .fault :=
  ⟨rfl, ⟨_, rfl, by decide⟩, ⟨_, rfl, by decide⟩, ⟨_, rfl, by decide⟩⟩

theorem witness_FirstFaultIsKept :
    (fed (atPhase .fault) [.command 0x0000#16, .command 0x3001#16, .reset]).widthDefined = true ∧
      (fed (atPhase .fault) [.command 0x0000#16, .command 0x3001#16, .reset]).phase = .fault ∧
      (0x0000#16 ≠ 0x2000#16 ∧ 0x0000#16 ≠ 0x2001#16) ∧ (0x3001#16 ≠ 0x2000#16 ∧ 0x3001#16 ≠ 0x2001#16) ∧
      (fed (atPhase .fault) [.command 0x0000#16, .command 0x3001#16, .reset]).input =
        [0x0000#16, 0x3001#16].map HostEvent.command ++ [.reset] ∧
      (after (exec .startv (atPhase .fault))).isSome = true := by decide

theorem witness_ChecksAreMadeInOrder :
    (atPhase .fault).widthDefined = true ∧ decode 0x3002#16 = .illFormed .reservedBitSet ∧
      decode 0x100F#16 = .command (.setw 15) ∧ decode 0x1FFF#16 = .command (.setw 4095) ∧
      15 ≤ Config.wmax ∧ 15 % 2 = 1 ∧ Config.wmax < 4095 ∧ decode 0x3001#16 = .command (.bit true) := by
  have := Config.wmax_ge
  have := Config.wmax_le
  refine ⟨by decide, by decide, by decide, by decide, ?_, by decide, ?_, by decide⟩ <;> omega

theorem witness_PhasesFollowTheTable :
    (atPhase .idle).widthDefined = true ∧ (atPhase .run).widthDefined = true ∧
      (atPhase .done).widthDefined = true ∧ (atPhase .fault).widthDefined = true := by decide

theorem witness_ComputeTransactionDeliversCompute :
    2 ≤ 16 ∧ 16 % 2 = 0 ∧ 16 ≤ Config.wmax ∧
      (fed State.reset (present (computePseudo [true] 16) ++ [])).widthDefined = true ∧
      State.reset.phase = .idle ∧
      (fed State.reset (present (computePseudo [true] 16) ++ [])).input =
        present (computePseudo [true] 16) ++ [] ∧
      (fed (atPhase .fault) (present (computeTransaction [true]) ++ [])).w = 16 :=
  ⟨by decide, by decide, Config.wmax_ge, by decide, by decide, by decide, by decide⟩

theorem witness_VerifyTransactionDeliversVerify :
    2 ≤ 16 ∧ 16 % 2 = 0 ∧ 16 ≤ Config.wmax ∧
      (fed State.reset (present (verifyPseudo [true] 16) ++ [])).widthDefined = true ∧
      State.reset.phase = .idle ∧
      (fed State.reset (present (verifyPseudo [true] 16) ++ [])).input =
        present (verifyPseudo [true] 16) ++ [] ∧
      (fed (atPhase .run) (present (verifyTransaction (List.replicate 16 false)) ++ [])).w = 16 :=
  ⟨by decide, by decide, Config.wmax_ge, by decide, by decide, by decide, by decide⟩

theorem witness_ChecksummedMessageVerifies :
    2 ≤ 16 ∧ 16 % 2 = 0 ∧ 16 ≤ Config.wmax ∧
      (fed State.reset (present (computeTransaction []) ++ [])).w = 16 ∧
      (fed State.reset (present (computeTransaction []) ++ [])).input = present (computeTransaction []) ++ [] ∧
      (fed (atPhase .fault) (present (verifyTransaction ([] ++ render 0 16)) ++ [])).w = 16 ∧
      (fed (atPhase .fault) (present (verifyTransaction ([] ++ render 0 16)) ++ [])).input =
        present (verifyTransaction ([] ++ render 0 16)) ++ [] :=
  ⟨by decide, by decide, Config.wmax_ge, by decide, by decide, by decide, by decide⟩

theorem witness_WhichCorruptionsAreDetected :
    0 < ([true] : BitSeq).length ∧ 16 ≤ 16 ∧ 16 % 2 = 0 ∧ 2 < ([true, true, true] : BitSeq).length ∧
      2 ≤ 2 ∧ 2 % 2 = 0 ∧ ([true, true, true] : BitSeq).length - 2 ≤ 1 ∧
      verify [true, true, true] 2 = .ok true [true, true] [true, true] := by decide

theorem witness_ShortestMessageHasAnEmptyPayload :
    2 ≤ 2 ∧ 2 % 2 = 0 ∧ ([false, true] : BitSeq).length = 2 := by decide

theorem witness_ResultsFitTheWidth :
    2 ≤ 2 ∧ 2 % 2 = 0 ∧ (opened .verify 4#12 1#8 1#8 0b0101 4).Inv ∧
      (opened .verify 4#12 1#8 1#8 0b0101 4).phase = .run ∧
      ∃ t, exec .fin (opened .verify 4#12 1#8 1#8 0b0101 4) = .next t :=
  ⟨by decide, by decide, full_inv, by decide, ⟨_, rfl⟩⟩

theorem witness_FinishedTransactionCannotBeExtended :
    (∃ t, exec .fin (opened .compute 16#12 2#8 6#8 0 0) = .next t ∧
      t.computed ≠ (opened .compute 16#12 2#8 6#8 0 0).computed) ∧
      ∃ t, exec .startc State.reset = .next t ∧ State.reset.phase ≠ .run ∧ t.phase = .run :=
  ⟨⟨_, rfl, by decide⟩, ⟨_, rfl, by decide, rfl⟩⟩

theorem witness_StartAndSetwAreIdempotent :
    (∃ t, exec .startv (atPhase .done) = .next t) ∧ ∃ t, exec (.setw 8) State.reset = .next t :=
  ⟨⟨_, rfl⟩, ⟨_, rfl⟩⟩

end Sys2Proof.Tests
end

/-! ## The state family (10_state.md): the invariant, WIDTH, the phase table, the ports -/

namespace Sys2Proof.Machine

/-! ### The invariant, operation by operation -/

/-- Feeding a bit leaves both sums reduced (R12). -/
theorem State.feed_sums_lt (b : Bool) (s : State) :
    (s.feed b).sum1.toNat < 255 ∧ (s.feed b).sum2.toNat < 255 := by
  rw [State.feed_sum1_toNat, State.feed_sum2_toNat]
  exact ⟨accStep_fst_lt .., accStep_snd_lt ..⟩

/-- The window never holds more than WIDTH bits after a shift (R69). -/
theorem State.pushTail_tail_lt_width (b : Bool) (s : State) : (s.pushTail b).tail < 2 ^ s.w :=
  Nat.mod_lt _ (Nat.two_pow_pos _)

/-- A shift lengthens the window by at most one bit (R69). -/
theorem State.pushTail_tail_lt_succ {s : State} {k : Nat} (b : Bool) (h : s.tail < 2 ^ k) :
    (s.pushTail b).tail < 2 ^ (k + 1) := by
  refine lt_of_le_of_lt (Nat.mod_le _ _) ?_
  have hb := Bool.toNat_le b
  rw [shift_or_bit, Nat.pow_succ]
  omega

/-- A legal width is kept whole by the 12-bit register (R6, R14). -/
theorem State.writeWidth_w {n : Nat} (s : State) (hn : n ≤ Config.wmax) : (s.writeWidth n).w = n := by
  have := Config.wmax_le
  rw [State.w_eq, State.writeWidth_width, BitVec.toNat_ofNat, Nat.mod_eq_of_lt (by omega)]

/-- The clauses of the invariant at the values of R28. -/
theorem State.reset_inv : State.reset.Inv where
  width_even := rfl
  width_min := by decide
  width_max := Config.wmax_ge
  sum1_lt := by decide
  sum2_lt := by decide
  fault_iff := by decide
  idle_clear _ := ⟨rfl, rfl, rfl⟩
  tail_lt := by decide
  cnt_max := Nat.zero_le _
  cnt_run _ := Nat.zero_le _
  compute_cnt _ := rfl
  filling_sums _ _ _ := ⟨rfl, rfl⟩
  computed_lt := Nat.two_pow_pos _
  claimed_lt := Nat.two_pow_pos _
  open_results _ := ⟨rfl, rfl, rfl, rfl⟩
  compute_results _ := ⟨rfl, rfl, rfl⟩
  short_results _ := ⟨rfl, rfl, rfl⟩
  valid_words _ := rfl
  verdict := nofun

namespace State.Inv

variable {s : State}

/-- The invariant says nothing of the acts to come. -/
theorem with_input (h : s.Inv) (es : List HostEvent) : ({ s with input := es } : State).Inv :=
  { h with }

/-- The packed word fits the result registers (R23). -/
theorem packedWord_lt (h : s.Inv) : s.packedWord < 2 ^ Config.wmax :=
  lt_of_lt_of_le (pack_lt_two_pow ..) (Nat.pow_le_pow_right (by decide) h.width_max)

/-- The window fits the result registers (R21, R23). -/
theorem tail_lt_wmax (h : s.Inv) : s.tail < 2 ^ Config.wmax :=
  lt_of_lt_of_le h.tail_lt (Nat.pow_le_pow_right (by decide) h.cnt_max)

/-- With a full window the comparator is equality of the packed word and the whole window (R82). -/
theorem comparator_iff (h : s.Inv) (hc : s.cnt = s.w) :
    s.comparator = true ↔ s.packedWord = s.tail := by
  rw [State.comparator, beq_iff_eq, Nat.mod_eq_of_lt (hc ▸ h.tail_lt)]

/-- Only phase FAULT records a fault, so an open or finished transaction has none. -/
theorem cause_none (h : s.Inv) (hp : s.phase ≠ .fault) : s.cause = none :=
  not_not.mp (mt h.fault_iff.mpr hp)

theorem raiseFault (h : s.Inv) (c : FaultCode) : (s.raiseFault c).Inv :=
  { h with
    fault_iff := by simp
    idle_clear := nofun
    cnt_run := nofun
    filling_sums := nofun
    open_results := by simp
    verdict := nofun }

theorem openTransaction (h : s.Inv) (m : Mode) : (s.openTransaction m).Inv where
  width_even := h.width_even
  width_min := h.width_min
  width_max := h.width_max
  sum1_lt := by simp
  sum2_lt := by simp
  fault_iff := by simp
  idle_clear := nofun
  tail_lt := by simp
  cnt_max := Nat.zero_le _
  cnt_run _ := Nat.zero_le _
  compute_cnt _ := rfl
  filling_sums _ _ _ := ⟨rfl, rfl⟩
  computed_lt := Nat.two_pow_pos _
  claimed_lt := Nat.two_pow_pos _
  open_results _ := ⟨rfl, rfl, rfl, rfl⟩
  compute_results _ := ⟨rfl, rfl, rfl⟩
  short_results _ := ⟨rfl, rfl, rfl⟩
  valid_words _ := rfl
  verdict := nofun

/-- Outside phase RUN no clause compares a register with WIDTH. -/
theorem writeWidth (h : s.Inv) {n : Nat} (hp : s.phase ≠ .run) (h2 : 2 ≤ n) (he : n % 2 = 0)
    (hn : n ≤ Config.wmax) : (s.writeWidth n).Inv :=
  { h with
    width_even := by rwa [State.writeWidth_w s hn]
    width_min := by rwa [State.writeWidth_w s hn]
    width_max := by rwa [State.writeWidth_w s hn]
    cnt_run := fun hr => absurd hr hp
    filling_sums := fun hr => absurd hr hp }

/-- A bit may go to the sums whenever the window is not filling (R68, R69). -/
theorem feed (h : s.Inv) (b : Bool) (hp : s.phase = .run) (hf : s.mode = .verify → ¬ s.cnt < s.w) :
    (s.feed b).Inv :=
  { h with
    sum1_lt := (s.feed_sums_lt b).1
    sum2_lt := (s.feed_sums_lt b).2
    idle_clear := by simp [hp]
    filling_sums := fun _ hm hc => absurd hc (hf hm) }

/-- A bit enters the window while it fills (R69). -/
theorem fillWindow (h : s.Inv) (b : Bool) (hp : s.phase = .run) (hm : s.mode = .verify)
    (hc : s.cnt < s.w) : (s.countBit.pushTail b).Inv :=
  { h with
    tail_lt := State.pushTail_tail_lt_succ (s := s.countBit) b h.tail_lt
    cnt_max := le_trans hc h.width_max
    cnt_run := fun _ => hc
    compute_cnt := by simp [hm]
    filling_sums := fun _ _ _ => h.filling_sums hp hm hc }

/-- A bit pushes another out of the full window (R69). -/
theorem slideWindow (h : s.Inv) (b : Bool) (hp : s.phase = .run) (hc : ¬ s.cnt < s.w) :
    (s.pushTail b).Inv :=
  have hfull : s.cnt = s.w := le_antisymm (h.cnt_run hp) (not_lt.mp hc)
  { h with tail_lt := by simpa only [State.pushTail_cnt, hfull] using s.pushTail_tail_lt_width b }

theorem deliverChecksum (h : s.Inv) (hp : s.phase = .run) (hm : s.mode = .compute) :
    s.deliverChecksum.Inv := by
  obtain ⟨-, -, hvalid, hwerr⟩ := h.open_results (.inr hp)
  exact
    { h with
      fault_iff := by simp [h.cause_none, hp]
      idle_clear := nofun
      cnt_run := nofun
      filling_sums := nofun
      computed_lt := h.packedWord_lt
      open_results := by simp
      short_results := by simp [hwerr]
      valid_words := by simp [hvalid]
      verdict := by simp [hm] }

theorem deliverVerdict (h : s.Inv) (hp : s.phase = .run) (hm : s.mode = .verify) (hc : s.cnt = s.w) :
    (s.deliverVerdict s.comparator).Inv := by
  obtain ⟨-, -, -, hwerr⟩ := h.open_results (.inr hp)
  exact
    { h with
      fault_iff := by simp [h.cause_none, hp]
      idle_clear := nofun
      cnt_run := nofun
      filling_sums := nofun
      computed_lt := h.packedWord_lt
      claimed_lt := h.tail_lt_wmax
      open_results := by simp
      compute_results := by simp [hm]
      short_results := by simp [hwerr]
      valid_words := (h.comparator_iff hc).mp
      verdict := fun _ _ _ => (h.comparator_iff hc).mpr }

theorem deliverWidthError (h : s.Inv) (hp : s.phase = .run) (hm : s.mode = .verify) :
    s.deliverWidthError.Inv := by
  obtain ⟨hcomputed, hclaimed, hvalid, -⟩ := h.open_results (.inr hp)
  exact
    { h with
      fault_iff := by simp [h.cause_none, hp]
      idle_clear := nofun
      cnt_run := nofun
      filling_sums := nofun
      open_results := by simp
      compute_results := by simp [hm]
      short_results := fun _ => ⟨hcomputed, hclaimed, hvalid⟩
      verdict := by simp }

end State.Inv

/-! ### The invariant, step by step -/

/-- Every command keeps the invariant, one operation per branch of its rules. -/
theorem Effect.keeps_inv {i : Instr} {s t : State} (he : Effect i s t) (h : s.Inv) : t.Inv := by
  cases he with
  | dropped => exact h
  | setwOpen | setwTooLarge | bitClosed | finClosed => exact h.raiseFault _
  | setwLegal hp h2 he hn => exact h.writeWidth (by rcases hp with hp | hp <;> simp [hp]) h2 he hn
  | startc | startv => exact h.openTransaction _
  | bitCompute hp hm => exact h.feed _ hp (by simp [hm])
  | bitFills hp hm hc => exact h.fillWindow _ hp hm hc
  | bitSlides hp hm hc => exact (h.feed _ hp fun _ => hc).slideWindow _ hp hc
  | finCompute hp hm => exact h.deliverChecksum hp hm
  | finVerdict hp hm hc => exact h.deliverVerdict hp hm hc
  | finShort hp hm => exact h.deliverWidthError hp hm

/-- Every accepted word keeps the invariant. -/
theorem State.accept_keeps_inv {s t : State} {w : Word} (h : s.Inv) (ha : s.accept w = .next t) :
    t.Inv := by
  obtain ⟨-, ⟨i, -, he⟩ | ⟨why, -, ⟨-, rfl⟩ | ⟨-, rfl⟩⟩⟩ := State.accept_next ha
  · exact he.keeps_inv h
  · exact h
  · exact h.raiseFault _

/-- Settles O12: the host's next act is none, a word or a reset, and each keeps the invariant. -/
theorem everyStepKeepsTheInvariant : Obligations.EveryStepKeepsTheInvariant := by
  intro s t h hs
  obtain ⟨-, rfl⟩ | ⟨w, rest, -, ha⟩ | ⟨rest, -, rfl⟩ := step_next hs
  · exact h
  · exact State.accept_keeps_inv (h.with_input rest) ha
  · exact State.reset_inv.with_input rest

/-- Settles O11. -/
theorem resetStateMeetsTheInvariant : Obligations.ResetStateMeetsTheInvariant := State.reset_inv

/-! ### WIDTH, and what outlives a start command -/

/-- Settles O22: SETW in phase IDLE or DONE is the one effect that writes WIDTH. -/
theorem widthIsWrittenOnlyBySetw : Obligations.WidthIsWrittenOnlyBySetw := by
  intro i s t h
  cases exec_effect h with
  | setwLegal hp _ _ hn => exact .inr ⟨_, rfl, hp, State.writeWidth_w s hn, rfl⟩
  | dropped | setwOpen | setwTooLarge | startc | startv | bitClosed | bitCompute | bitFills | bitSlides
  | finClosed | finCompute | finVerdict | finShort => exact .inl rfl

/-- A start command writes every register but WIDTH (R67, R70). -/
theorem State.openTransaction_congr {s t : State} (m : Mode) (hw : s.width = t.width)
    (hi : s.input = t.input) : s.openTransaction m = t.openTransaction m := by
  simp only [State.openTransaction, hw, hi]

/-- A start command answers alike in two states with the same WIDTH and the same acts to come. -/
theorem accept_start_congr {s t : State} {i : Instr} (h : i = .startc ∨ i = .startv)
    (hw : s.width = t.width) (hi : s.input = t.input) : s.accept (encode i) = t.accept (encode i) := by
  have hdef : s.widthDefined = t.widthDefined := by
    rw [State.widthDefined, State.widthDefined, State.w_eq, State.w_eq, hw]
  have hexec : exec i s = exec i t := by
    rcases h with rfl | rfl <;> exact congrArg Host.Outcome.next (State.openTransaction_congr _ hw hi)
  have hdec : decode (encode i) = .command i := by rcases h with rfl | rfl <;> simp
  cases hd : t.widthDefined with
  | false => rw [State.accept_undefined _ (hdef.trans hd), State.accept_undefined _ hd]
  | true => rw [State.accept_command (hdef.trans hd) hdec, State.accept_command hd hdec, hexec]

/-- Settles O25: the first step, the start command, already answers alike. -/
theorem nothingButWidthOutlivesAStart : Obligations.NothingButWidthOutlivesAStart := by
  intro s t i rest k h hw hs ht
  have hstep : step s = step t := by
    rw [step_command hs, step_command (ht.trans hs)]
    exact accept_start_congr h hw rfl
  rw [runFor_succ, runFor_succ, hstep]

/-! ### The phase table -/

/-- What an entry of the phase table says of the outcome of a word accepted in `s` (R15). -/
def PhaseEntry.Describes (s : State) (o : Host.Outcome State Fault Refusal) : PhaseEntry → Prop
  | .to p => ∃ t, o = .next t ∧ t.phase = p
  | .faults c => ∃ t, o = .next t ∧ t.phase = .fault ∧ t.cause = some c
  | .dropped => o = .next s
  | .unspecified => o = .refused .widthUnspecified

/-- SETW of zero or of an odd value at most WMAX is refused where it would write WIDTH (R57). -/
theorem exec_setw_unspecified {n : Nat} {s : State} (hp : s.phase = .idle ∨ s.phase = .done)
    (hn : n ≤ Config.wmax) (hu : n = 0 ∨ n % 2 = 1) :
    exec (.setw n) s = .refused .widthUnspecified := by
  rcases hp with hp | hp <;> simp [exec, execSetw, setWidthAt, hp, classifyWidth_unspecified hn hu]

/-- In phase RUN a BIT is accepted and the transaction stays open (R71). -/
theorem exists_effect_bit_of_run {s : State} (b : Bool) (hp : s.phase = .run) :
    ∃ t, Effect (.bit b) s t ∧ t.phase = .run := by
  cases hm : s.mode with
  | compute => exact ⟨_, .bitCompute hp hm, hp⟩
  | verify =>
    by_cases hc : s.cnt < s.w
    · exact ⟨_, .bitFills hp hm hc, hp⟩
    · exact ⟨_, .bitSlides hp hm hc, hp⟩

/-- In phase RUN a FIN closes the transaction (R84). -/
theorem exists_effect_fin_of_run {s : State} (hp : s.phase = .run) :
    ∃ t, Effect .fin s t ∧ t.phase = .done := by
  cases hm : s.mode with
  | compute => exact ⟨_, .finCompute hp hm, rfl⟩
  | verify =>
    by_cases hc : s.cnt = s.w
    · exact ⟨_, .finVerdict hp hm hc, rfl⟩
    · exact ⟨_, .finShort hp hm hc, rfl⟩

section

variable {i : Instr} {s : State}

theorem PhaseEntry.describes_to {p : Phase} (h : ∃ t, Effect i s t ∧ t.phase = p) :
    (PhaseEntry.to p).Describes s (exec i s) :=
  h.imp fun _ ⟨he, hp⟩ => ⟨he.exec_eq, hp⟩

theorem PhaseEntry.describes_faults {c : FaultCode} (h : Effect i s (s.raiseFault c)) :
    (PhaseEntry.faults c).Describes s (exec i s) := ⟨_, h.exec_eq, rfl, rfl⟩

theorem PhaseEntry.describes_dropped (h : Effect i s s) :
    PhaseEntry.dropped.Describes s (exec i s) := h.exec_eq

end

/-- The entries for SETW in the two phases in which it may write WIDTH (R15, split by R57). -/
theorem setw_entry_describes {s : State} {p : Phase} (n : Nat) (hs : s.phase = p)
    (ho : p = .idle ∨ p = .done) :
    (if Config.wmax < n then .faults .operandErr
      else if unspecifiedWidth n then .unspecified else .to p : PhaseEntry).Describes s
      (exec (.setw n) s) := by
  have hp : s.phase = .idle ∨ s.phase = .done := hs ▸ ho
  split
  · exact PhaseEntry.describes_faults (.setwTooLarge hp ‹_›)
  · rename_i hle
    split
    · exact exec_setw_unspecified hp (not_lt.mp hle) ((unspecifiedWidth_iff n).mp ‹_›)
    · rename_i hu
      obtain ⟨h2, he⟩ := (unspecifiedWidth_false_iff n).mp (Bool.not_eq_true _ ▸ hu)
      exact PhaseEntry.describes_to ⟨_, .setwLegal hp h2 he (not_lt.mp hle), hs⟩

/-- The columns of the five commands. -/
theorem phaseTable_describes_exec (i : Instr) (s : State) :
    (phaseTable s.phase (.command i)).Describes s (exec i s) := by
  cases i with
  | setw n =>
    cases hp : s.phase with
    | idle => exact setw_entry_describes n hp (.inl rfl)
    | run => exact PhaseEntry.describes_faults (.setwOpen hp)
    | done => exact setw_entry_describes n hp (.inr rfl)
    | fault => exact PhaseEntry.describes_dropped (.dropped hp nofun nofun)
  | startc => cases s.phase <;> exact PhaseEntry.describes_to ⟨_, .startc, rfl⟩
  | startv => cases s.phase <;> exact PhaseEntry.describes_to ⟨_, .startv, rfl⟩
  | bit b =>
    cases hp : s.phase with
    | idle => exact PhaseEntry.describes_faults (.bitClosed (.inl hp))
    | run => exact PhaseEntry.describes_to (exists_effect_bit_of_run b hp)
    | done => exact PhaseEntry.describes_faults (.bitClosed (.inr hp))
    | fault => exact PhaseEntry.describes_dropped (.dropped hp nofun nofun)
  | fin =>
    cases hp : s.phase with
    | idle => exact PhaseEntry.describes_faults (.finClosed (.inl hp))
    | run => exact PhaseEntry.describes_to (exists_effect_fin_of_run hp)
    | done => exact PhaseEntry.describes_faults (.finClosed (.inr hp))
    | fault => exact PhaseEntry.describes_dropped (.dropped hp nofun nofun)

/-- The column of the ill-formed words (R47, R110). -/
theorem phaseTable_describes_illFormed (why : IllFormed) (s : State) :
    (phaseTable s.phase (.illFormed why)).Describes s (.next s.receiveIllFormed) := by
  cases hp : s.phase with
  | fault => exact congrArg Host.Outcome.next (State.receiveIllFormed_fault hp)
  | idle | run | done =>
    rw [State.receiveIllFormed_other (by simp [hp])]
    exact ⟨_, rfl, rfl, rfl⟩

/-- Every word accepted in a state with WIDTH defined follows its entry (R15). -/
theorem phaseTable_describes_accept {s : State} (w : Word) (hw : s.widthDefined = true) :
    (phaseTable s.phase (decode w)).Describes s (s.accept w) := by
  cases hd : decode w with
  | command i => rw [State.accept_command hw hd]; exact phaseTable_describes_exec i s
  | illFormed why => rw [State.accept_illFormed hw hd]; exact phaseTable_describes_illFormed why s

/-- Settles O50. -/
theorem phasesFollowTheTable : Obligations.PhasesFollowTheTable := by
  intro s w hw
  have h := phaseTable_describes_accept w hw
  cases he : phaseTable s.phase (decode w) <;> rw [he] at h <;> exact h

/-! ### Waiting, and the values of the registers after reset and after a start command -/

/-- Settles O8. -/
theorem stepWithoutHostActChangesNothing : Obligations.StepWithoutHostActChangesNothing := by
  intro s h
  rw [step, h]

/-- Settles O10: the next state is the opened transaction. -/
theorem resetAndStartValuesOfEveryRegister : Obligations.ResetAndStartValuesOfEveryRegister := by
  constructor
  · exact ⟨rfl, rfl, rfl, rfl, rfl, rfl, rfl, rfl, rfl, rfl, rfl, rfl⟩
  · intro i m s h
    have hexec : exec i s = .next (s.openTransaction m) := by
      rcases h with ⟨rfl, rfl⟩ | ⟨rfl, rfl⟩ <;> rfl
    exact ⟨_, hexec, rfl, rfl, rfl, rfl, rfl, rfl, rfl, rfl, rfl, rfl, rfl, rfl⟩

/-! ### The output ports -/

theorem Phase.code_lt (p : Phase) : p.code < 4 := by cases p <;> decide

theorem Mode.code_lt (m : Mode) : m.code < 2 := by cases m <;> decide

theorem causeCode_lt (c : Option FaultCode) : causeCode c < 4 := by
  rcases c with _ | c
  · decide
  · cases c <;> decide

/-- Each field of `status` fits the bits R20 gives it. -/
theorem State.status_fields_lt (s : State) :
    s.phase.code < 4 ∧ s.mode.code < 2 ∧ s.valid.toNat < 2 ∧ s.werr.toNat < 2 ∧
      causeCode s.cause < 4 :=
  ⟨s.phase.code_lt, s.mode.code_lt, s.valid.toNat_lt, s.werr.toNat_lt, causeCode_lt s.cause⟩

/-- Fields that do not overlap may be added. -/
theorem or_shiftLeft_eq_add {a b i : Nat} (h : b < 2 ^ i) : b ||| a <<< i = b + 2 ^ i * a := by
  rw [Nat.or_comm, ← Nat.shiftLeft_add_eq_or_of_lt h, Nat.shiftLeft_eq, Nat.add_comm, Nat.mul_comm]

/-- The formula of `status` (R20) as a sum: its fields do not overlap. -/
theorem status_fields_eq_sum (s : State) :
    s.phase.code ||| (s.mode.code <<< 2) ||| (s.valid.toNat <<< 3) ||| (s.werr.toNat <<< 4)
      ||| (causeCode s.cause <<< 5) =
    s.phase.code + 4 * s.mode.code + 8 * s.valid.toNat + 16 * s.werr.toNat + 32 * causeCode s.cause := by
  obtain ⟨hp, hm, hv, he, -⟩ := s.status_fields_lt
  rw [or_shiftLeft_eq_add (i := 2) (by omega), or_shiftLeft_eq_add (i := 3) (by omega),
    or_shiftLeft_eq_add (i := 4) (by omega), or_shiftLeft_eq_add (i := 5) (by omega)]
  rfl

/-- `status` as a number: no field is cut off by the eight bits. -/
theorem State.status_toNat (s : State) :
    s.status.toNat =
      s.phase.code + 4 * s.mode.code + 8 * s.valid.toNat + 16 * s.werr.toNat + 32 * causeCode s.cause := by
  obtain ⟨hp, hm, hv, he, hc⟩ := s.status_fields_lt
  rw [State.status, status_fields_eq_sum, BitVec.toNat_ofNat, Nat.mod_eq_of_lt (by omega)]

/-- A field of a register, in numbers. -/
theorem extractLsb'_toNat_eq (v : Byte) (i k : Nat) :
    (v.extractLsb' i k).toNat = v.toNat / 2 ^ i % 2 ^ k := by
  rw [BitVec.extractLsb'_toNat, Nat.shiftRight_eq_div_pow]

/-- A bit of a register, in numbers. -/
theorem getLsbD_eq_iff (v : Byte) (i : Nat) (b : Bool) :
    v.getLsbD i = b ↔ v.toNat / 2 ^ i % 2 = b.toNat := by
  rw [BitVec.getLsbD, Nat.testBit_eq_decide_div_mod_eq]
  cases b <;> simp

/-- Settles O14: read as a sum, `status` gives back each field by division and remainder. -/
theorem statusGathersTheSmallRegisters : Obligations.StatusGathersTheSmallRegisters := by
  refine ⟨fun s => ?_, by decide⟩
  obtain ⟨hp, hm, hv, he, hc⟩ := s.status_fields_lt
  simp only [extractLsb'_toNat_eq, getLsbD_eq_iff, status_fields_eq_sum, State.status_toNat,
    Bool.toNat_false, and_true]
  omega

/-- A result register is shown whole (R23, R27). -/
theorem toNat_ofNat_wmax {x : Nat} (h : x < 2 ^ Config.wmax) :
    (BitVec.ofNat Config.wmax x).toNat = x := by
  rw [BitVec.toNat_ofNat, Nat.mod_eq_of_lt h]

/-- Settles O15: the invariant bounds the result registers, and no port reads TAIL or CNT. -/
theorem outputsShowTheRegistersAndHideTheWindow :
    Obligations.OutputsShowTheRegistersAndHideTheWindow := by
  constructor
  · intro s h
    exact ⟨rfl, rfl, rfl, rfl, toNat_ofNat_wmax h.computed_lt, toNat_ofNat_wmax h.claimed_lt⟩
  · intro s tail cnt
    rfl

end Sys2Proof.Machine

/-! ## The memory family (20_memory.md): there is no memory, and what repeating a command does (R34) -/

namespace Sys2Proof.Machine

/-- Opening a transaction again changes nothing: its values do not depend on what it overwrites (R67). -/
@[simp] theorem State.openTransaction_openTransaction (m : Mode) (s : State) :
    (s.openTransaction m).openTransaction m = s.openTransaction m := rfl

/-- Writing the same WIDTH again changes nothing (R58). -/
@[simp] theorem State.writeWidth_writeWidth (n : Nat) (s : State) :
    (s.writeWidth n).writeWidth n = s.writeWidth n := rfl

/-- A SETW in phase FAULT is dropped (R110), also one that raised the fault itself (R55, R56). -/
theorem exec_setw_of_fault {s : State} (n : Nat) (hp : s.phase = .fault) :
    exec (.setw n) s = .next s :=
  Effect.exec_eq (.dropped hp nofun nofun)

/-- A legal SETW does not leave phase IDLE or DONE, so it is executed again (R58). -/
theorem exec_setw_writeWidth {n : Nat} {s : State} (hp : s.phase = .idle ∨ s.phase = .done)
    (h2 : 2 ≤ n) (he : n % 2 = 0) (hn : n ≤ Config.wmax) :
    exec (.setw n) (s.writeWidth n) = .next (s.writeWidth n) := by
  simpa only [State.writeWidth_writeWidth] using
    (Effect.setwLegal (s := s.writeWidth n) hp h2 he hn).exec_eq

/-- Settles O58: a repeated start or legal SETW writes the same values, a SETW that faulted is dropped. -/
theorem startAndSetwAreIdempotent : Obligations.StartAndSetwAreIdempotent := by
  intro i s t hi h
  have heff : Effect i s t := exec_effect h
  rcases hi with rfl | rfl | ⟨n, rfl⟩
  · cases heff with
    | dropped _ hc _ => exact absurd rfl hc
    | startc =>
      simpa only [State.openTransaction_openTransaction] using
        (Effect.startc (s := s.openTransaction .compute)).exec_eq
  · cases heff with
    | dropped _ _ hv => exact absurd rfl hv
    | startv =>
      simpa only [State.openTransaction_openTransaction] using
        (Effect.startv (s := s.openTransaction .verify)).exec_eq
  · cases heff with
    | dropped hp => exact exec_setw_of_fault n hp
    | setwOpen | setwTooLarge => exact exec_setw_of_fault n (State.raiseFault_phase _ s)
    | setwLegal hp h2 he hn => exact exec_setw_writeWidth hp h2 he hn

end Sys2Proof.Machine

/-! ## The encoding family (30_encoding.md): rows, decode and encode, ill-formed words, BITS lines, the step -/

namespace Sys2Proof

/-! ### The rows of the opcode map -/

/-- Two rows whose bits differ under both masks have no word in common (R46, R54). -/
theorem Row.not_both_match {a b : Row} (h : a.bits &&& b.mask ≠ b.bits &&& a.mask) (w : Word) :
    ¬ (a.matchesWord w = true ∧ b.matchesWord w = true) := by
  simp only [Row.matchesWord, beq_iff_eq]
  rintro ⟨ha, hb⟩
  apply h
  calc a.bits &&& b.mask = w &&& a.mask &&& b.mask := by rw [ha]
    _ = w &&& b.mask &&& a.mask := by rw [BitVec.and_assoc, BitVec.and_comm a.mask, BitVec.and_assoc]
    _ = b.bits &&& a.mask := by rw [hb]

/-- A word that matches one row matches no row whose bits differ under both masks. -/
theorem Row.matchesWord_eq_false {a b : Row} {w : Word} (hb : b.matchesWord w = true)
    (h : a.bits &&& b.mask ≠ b.bits &&& a.mask) : a.matchesWord w = false :=
  Bool.eq_false_iff.mpr fun ha => Row.not_both_match h w ⟨ha, hb⟩

/-- Any two rows of the opcode map differ under both masks. -/
theorem rows_pairwise_bits_ne :
    rows.Pairwise fun a b => a.bits &&& b.mask ≠ b.bits &&& a.mask := by decide

/-! ### Decoding, row by row: the rows tested before the word's own do not match it -/

section

variable {w : Word}

theorem decode_of_rowSetw (h : rowSetw.matchesWord w = true) :
    decode w = .command (.setw (argField w).toNat) := by
  simp [decode, h]

theorem decode_of_rowStartc (h : rowStartc.matchesWord w = true) : decode w = .command .startc := by
  simp (disch := decide) [decode, h, Row.matchesWord_eq_false h]

theorem decode_of_rowStartv (h : rowStartv.matchesWord w = true) : decode w = .command .startv := by
  simp (disch := decide) [decode, h, Row.matchesWord_eq_false h]

theorem decode_of_rowBit (h : rowBit.matchesWord w = true) :
    decode w = .command (.bit (w.getLsbD 0)) := by
  simp (disch := decide) [decode, h, Row.matchesWord_eq_false h]

theorem decode_of_rowFin (h : rowFin.matchesWord w = true) : decode w = .command .fin := by
  simp (disch := decide) [decode, h, Row.matchesWord_eq_false h]

end

/-- Everything a word can decode to: the command of the row it matches, or ILL when it matches none. -/
theorem decode_cases (w : Word) :
    (rowSetw.matchesWord w = true ∧ decode w = .command (.setw (argField w).toNat)) ∨
    (rowStartc.matchesWord w = true ∧ decode w = .command .startc) ∨
    (rowStartv.matchesWord w = true ∧ decode w = .command .startv) ∨
    (rowBit.matchesWord w = true ∧ decode w = .command (.bit (w.getLsbD 0))) ∨
    (rowFin.matchesWord w = true ∧ decode w = .command .fin) ∨
    ((∀ r ∈ rows, r.matchesWord w = false) ∧ decode w = .illFormed (whyIllFormed w)) := by
  unfold decode
  split_ifs <;> simp_all [rows]

/-- A word is ill-formed exactly when it matches no row (R54). -/
theorem decode_illFormed_iff (w : Word) :
    (∃ why, decode w = .illFormed why) ↔ ∀ r ∈ rows, r.matchesWord w = false := by
  obtain ⟨h, hd⟩ | ⟨h, hd⟩ | ⟨h, hd⟩ | ⟨h, hd⟩ | ⟨h, hd⟩ | ⟨h, hd⟩ := decode_cases w
  case inr.inr.inr.inr.inr => exact iff_of_true ⟨_, hd⟩ h
  all_goals simp [hd, rows, h]

/-- Settles O3: as the rows are disjoint, the order in which the decoder tests them does not matter. -/
theorem decodingFollowsTheOneMatchingRow : Obligations.DecodingFollowsTheOneMatchingRow := fun w =>
  ⟨decode_of_rowSetw, decode_of_rowStartc, decode_of_rowStartv, decode_of_rowBit, decode_of_rowFin,
    rows_pairwise_bits_ne.imp fun h => Row.not_both_match h w, decode_illFormed_iff w⟩

/-! ### The words of the two commands with an operand, as fields -/

/-- The operand of a well-formed SETW is kept whole by the 12-bit field (R44). -/
theorem encode_setw_eq_append {n : Nat} (h : n ≤ 4095) : encode (.setw n) = 1#4 ++ BitVec.ofNat 12 n := by
  rw [← setw_word_eq_append, BitVec.toNat_ofNat, Nat.mod_eq_of_lt (by omega)]
  rfl

theorem argField_encode_setw {n : Nat} (h : n ≤ 4095) : (argField (encode (.setw n))).toNat = n := by
  obtain ⟨-, harg⟩ := (word_eq_append_iff _ _ _).mp (encode_setw_eq_append h)
  rw [harg, BitVec.toNat_ofNat, Nat.mod_eq_of_lt (by omega)]

/-- The symbol of BIT stands in bit 0 below eleven reserved bits (R45). -/
theorem encode_bit_eq_append (b : Bool) : encode (.bit b) = 3#4 ++ (0#11 ++ BitVec.ofBool b) := by
  cases b <;> decide

/-- Settles O1: SETW by its row and its operand field, the other commands by their own words. -/
theorem encodedCommandDecodesToItself : Obligations.EncodedCommandDecodesToItself := by
  intro i hi
  cases i with
  | setw n =>
    have hn : n ≤ 4095 := of_decide_eq_true hi
    rw [decode_of_rowSetw (Laws.EncodesInItsRow.setw n hi), argField_encode_setw hn]
  | startc => exact Machine.decode_encode_startc
  | startv => exact Machine.decode_encode_startv
  | bit b => exact Machine.decode_encode_bit b
  | fin => exact Machine.decode_encode_fin

/-! ### The word of a row is the encoding of the command it gives -/

section

variable {w : Word}

theorem encode_setw_of_rowSetw (h : rowSetw.matchesWord w = true) :
    encode (.setw (argField w).toNat) = w := by
  have hop : opField w = 1#4 := (rowSetw_matches_iff w).mp h
  calc encode (.setw (argField w).toNat) = 1#4 ++ argField w := setw_word_eq_append (argField w)
    _ = w := ((word_eq_append_iff w _ _).mpr ⟨hop, rfl⟩).symm

theorem encode_bit_of_rowBit (h : rowBit.matchesWord w = true) : encode (.bit (w.getLsbD 0)) = w := by
  obtain ⟨hop, hreserved⟩ := (rowBit_matches_iff w).mp h
  have harg : argField w = 0#11 ++ BitVec.ofBool (w.getLsbD 0) := hreserved ▸ argField_split w
  rw [encode_bit_eq_append, ← (word_eq_append_iff w _ _).mpr ⟨hop, harg⟩]

/-- A row whose mask is full has one word, its bits. -/
theorem Row.bits_eq_of_full_mask {r : Row} (hr : r.mask = 0xFFFF#16) (h : r.matchesWord w = true) :
    r.bits = w := by
  rw [Row.matchesWord, beq_iff_eq, hr, word_and_full_mask] at h
  exact h.symm

end

/-- Settles O2: by the row the word matches, which fixes all its bits but the operand's. -/
theorem decodedWordIsItsCommandsEncoding : Obligations.DecodedWordIsItsCommandsEncoding := by
  intro w i hi
  obtain ⟨h, hd⟩ | ⟨h, hd⟩ | ⟨h, hd⟩ | ⟨h, hd⟩ | ⟨h, hd⟩ | ⟨-, hd⟩ := decode_cases w <;>
    cases hd.symm.trans hi
  · have hn : (argField w).toNat ≤ 4095 := Nat.le_of_lt_succ (argField w).isLt
    exact ⟨decide_eq_true hn, encode_setw_of_rowSetw h⟩
  · exact ⟨rfl, Row.bits_eq_of_full_mask (r := rowStartc) rfl h⟩
  · exact ⟨rfl, Row.bits_eq_of_full_mask (r := rowStartv) rfl h⟩
  · exact ⟨rfl, encode_bit_of_rowBit h⟩
  · exact ⟨rfl, Row.bits_eq_of_full_mask (r := rowFin) rfl h⟩

/-- Settles O5, word by word. -/
theorem specWordsDecodeAsWritten : Obligations.SpecWordsDecodeAsWritten :=
  ⟨by decide, by decide, by decide, by decide, by decide, by decide, by decide⟩

/-! ### Ill-formed words (R47) -/

/-- The two start commands differ in bit 0, so the other bits of the operand field decide. -/
theorem rowStart_matches_iff (w : Word) :
    (rowStartc.matchesWord w = true ∨ rowStartv.matchesWord w = true) ↔
      opField w = 2#4 ∧ w.extractLsb' 1 11 = 0#11 := by
  rw [rowStartc_matches_iff, rowStartv_matches_iff, argField_eq_zero_iff, argField_eq_one_iff]
  cases w.getLsbD 0 <;> simp

/-- The words with a row, in fields: the complement of the list of R47. -/
theorem exists_row_iff (w : Word) :
    (∃ r ∈ rows, r.matchesWord w = true) ↔
      opField w = 1#4 ∨ ((opField w = 2#4 ∨ opField w = 3#4) ∧ w.extractLsb' 1 11 = 0#11) ∨
        (opField w = 4#4 ∧ argField w = 0#12) := by
  have hstart := rowStart_matches_iff w
  simp only [rows, List.mem_cons, List.not_mem_nil, or_false, exists_eq_or_imp, exists_eq_left,
    rowSetw_matches_iff, rowBit_matches_iff, rowFin_matches_iff]
  tauto

/-- The operation codes, as R47 divides them. -/
theorem opField_cases (op : BitVec 4) :
    op = 0#4 ∨ op = 1#4 ∨ op = 2#4 ∨ op = 3#4 ∨ op = 4#4 ∨ 5 ≤ op.toNat := by
  revert op; decide

/-- The list of R47. -/
theorem decode_illFormed_iff_fields (w : Word) :
    (∃ why, decode w = .illFormed why) ↔
      (opField w = 0#4 ∨ 5 ≤ (opField w).toNat) ∨
      ((opField w = 2#4 ∨ opField w = 3#4) ∧ w.extractLsb' 1 11 ≠ 0#11) ∨
      (opField w = 4#4 ∧ argField w ≠ 0#12) := by
  have hnone : (∀ r ∈ rows, r.matchesWord w = false) ↔ ¬ ∃ r ∈ rows, r.matchesWord w = true := by simp
  rw [decode_illFormed_iff, hnone, exists_row_iff]
  obtain h | h | h | h | h | h := opField_cases (opField w)
  case inr.inr.inr.inr.inr =>
    have hne : ∀ c : BitVec 4, c.toNat < 5 → opField w ≠ c := by rintro c hc rfl; omega
    simp [h, hne]
  all_goals simp [h]

end Sys2Proof

namespace Sys2Proof.Machine

/-- Settles O4: the list of R47, and a fault outside phase FAULT that writes CAUSE and PHASE. -/
theorem illFormedWordsRaiseIllegalCmd : Obligations.IllFormedWordsRaiseIllegalCmd := by
  refine ⟨decode_illFormed_iff_fields, fun s w why hw hd => ?_, ⟨.unknownOpcode, by decide⟩,
    ⟨.unknownOpcode, by decide⟩⟩
  rw [State.accept_illFormed hw hd]
  constructor
  · intro hp
    rw [State.receiveIllFormed_other hp]
    rfl
  · intro hp
    rw [State.receiveIllFormed_fault hp]

/-! ### The line BITS (R51) -/

/-- A line without a semicolon has no comment (R50). -/
theorem withoutComment_eq_self {cs : List Char} (h : ';' ∉ cs) : withoutComment cs = cs := by
  induction cs with
  | nil => rfl
  | cons c cs ih =>
    obtain ⟨hc, hcs⟩ := List.ne_and_not_mem_of_not_mem_cons h
    simp [withoutComment, hc.symm, ih hcs]

/-- Spaces before a piece do not count (R50). -/
@[simp] theorem pieces_space (cs : List Char) : pieces (' ' :: cs) = pieces cs := by simp [pieces]

/-- A space ends a piece. -/
theorem pieces_cons_space {c : Char} (hc : c ≠ ' ') (cs : List Char) :
    pieces (c :: ' ' :: cs) = [c] :: pieces cs := by
  rw [pieces, if_neg hc]
  simp

/-- Any other character goes on with the piece. -/
theorem pieces_cons_cons {c d : Char} {cs p : List Char} {ps : List (List Char)} (hc : c ≠ ' ')
    (hd : d ≠ ' ') (h : pieces (d :: cs) = p :: ps) : pieces (c :: d :: cs) = (c :: p) :: ps := by
  rw [pieces, if_neg hc]
  simp [hd, h]

/-- Text without a space is one piece. -/
theorem pieces_eq_singleton {c : Char} {cs : List Char} (h : ' ' ∉ c :: cs) :
    pieces (c :: cs) = [c :: cs] := by
  obtain ⟨hc, hcs⟩ := List.ne_and_not_mem_of_not_mem_cons h
  induction cs generalizing c with
  | nil => simp [pieces, hc.symm]
  | cons d cs ih =>
    obtain ⟨hd, hds⟩ := List.ne_and_not_mem_of_not_mem_cons hcs
    exact pieces_cons_cons hc.symm hd.symm (ih hcs hd hds)

/-- Text without a space, up to a space, is the first piece. -/
theorem pieces_append_space {c : Char} {cs : List Char} (h : ' ' ∉ c :: cs) (ds : List Char) :
    pieces (c :: cs ++ ' ' :: ds) = (c :: cs) :: pieces ds := by
  obtain ⟨hc, hcs⟩ := List.ne_and_not_mem_of_not_mem_cons h
  induction cs generalizing c with
  | nil => exact pieces_cons_space hc.symm ds
  | cons d cs ih =>
    obtain ⟨hd, hds⟩ := List.ne_and_not_mem_of_not_mem_cons hcs
    exact pieces_cons_cons hc.symm hd.symm (ih hcs hd hds)

/-- A sequence in quotation marks with nothing behind it. -/
theorem quotedSymbols_quoted (cs : List Char) :
    quotedSymbols [] (quoteChar :: (cs ++ [quoteChar])) = symbolsOfChars cs := by
  simp [quotedSymbols]

/-- The character of a symbol. -/
def symbolChar (b : Bool) : Char := if b then '1' else '0'

/-- The characters of a sequence are read back as the sequence (R126). -/
theorem symbolsOfChars_map_symbolChar (p : BitSeq) : symbolsOfChars (p.map symbolChar) = some p := by
  induction p with
  | nil => rfl
  | cons b p ih => cases b <;> simp [symbolChar, symbolsOfChars, ih]

/-- A quoted sequence has no character but its symbols and the quotation marks. -/
theorem not_mem_quoted {c : Char} (p : BitSeq) (h : c ∉ [quoteChar, '0', '1']) :
    c ∉ quoteChar :: (p.map symbolChar ++ [quoteChar]) := by
  have hsymbol : ∀ b, c ≠ symbolChar b := by rintro (_ | _) rfl <;> simp [symbolChar] at h
  simp only [List.mem_cons, List.mem_append, List.mem_map, not_or] at h ⊢
  exact ⟨h.1, fun ⟨b, _, hb⟩ => hsymbol b hb.symm, h.1, List.not_mem_nil⟩

/-- The two pieces of a BITS line. -/
theorem pieces_bits_line {c : Char} {cs : List Char} (h : ' ' ∉ c :: cs) :
    pieces (['B', 'I', 'T', 'S'] ++ ' ' :: c :: cs) = [['B', 'I', 'T', 'S'], c :: cs] := by
  rw [pieces_append_space (by decide), pieces_eq_singleton h]

/-- Settles O6: the line has two pieces, and the quoted one is read back as `p`. -/
theorem bitsLineExpandsToOneBitPerSymbol : Obligations.BitsLineExpandsToOneBitPerSymbol := by
  intro p
  show assembleLine (['B', 'I', 'T', 'S'] ++ ' ' :: quoteChar :: (p.map symbolChar ++ [quoteChar])) =
    some (bitsCommands p)
  have hcomment : ';' ∉ quoteChar :: (p.map symbolChar ++ [quoteChar]) := not_mem_quoted p (by decide)
  have hspace : ' ' ∉ quoteChar :: (p.map symbolChar ++ [quoteChar]) := not_mem_quoted p (by decide)
  rw [assembleLine, withoutComment_eq_self (by simpa using hcomment), pieces_bits_line hspace]
  simp [quotedSymbols_quoted, symbolsOfChars_map_symbolChar]

/-! ### The step -/

/-- Settles O7: a step accepts the word, and with WIDTH defined the accepted word is its command. -/
theorem stepExecutesTheAcceptedCommand : Obligations.StepExecutesTheAcceptedCommand := by
  constructor
  · intro s w rest i h hw hd
    rw [step_command h]
    exact State.accept_command (s := { s with input := rest }) hw hd
  · intro s w rest h
    exact step_command h

end Sys2Proof.Machine

/-! ## The width family (40_width_config.md): SETW by phase and operand, the one refusal, an undefined WIDTH -/

namespace Sys2Proof.Machine

/-! ### The one refusal (R57, 93_implementation_defined.md U1) -/

/-- A command is refused exactly when it is the SETW of R57. -/
theorem exec_refused_iff {i : Instr} {s : State} :
    exec i s = .refused .widthUnspecified ↔
      ∃ n, i = .setw n ∧ (n = 0 ∨ n % 2 = 1) ∧ n ≤ Config.wmax ∧ (s.phase = .idle ∨ s.phase = .done) := by
  constructor
  · intro h
    obtain ⟨-, n, hi, hn, hu, hp⟩ := exec_refused h
    exact ⟨n, hi, hu, hn, hp⟩
  · rintro ⟨n, rfl, hu, hn, hp⟩
    exact exec_setw_unspecified hp hn hu

/-- A command has a next state unless it is refused: the model has no fault of its own, and no other refusal. -/
theorem exists_exec_next_iff {i : Instr} {s : State} :
    (∃ t, exec i s = .next t) ↔ exec i s ≠ .refused .widthUnspecified := by
  cases h : exec i s with
  | next t => simp
  | fault f => cases f
  | refused r =>
    obtain ⟨rfl, -⟩ := exec_refused h
    simp

/-- Settles O21: an ill-formed word always has a next state, and a command has one unless it is that SETW. -/
theorem onlyTheUnspecifiedWidthIsRefused : Obligations.OnlyTheUnspecifiedWidthIsRefused := by
  intro s w hw
  cases hd : decode w with
  | illFormed why => simp [State.accept_illFormed hw hd]
  | command i =>
    rw [State.accept_command hw hd, exists_exec_next_iff, ne_eq, exec_refused_iff]
    simp only [Decoded.command.injEq]

/-- Settles O18. -/
theorem unspecifiedWidthHasNoSuccessor : Obligations.UnspecifiedWidthHasNoSuccessor :=
  fun _ _ hp hn hu => exec_setw_unspecified hp hn hu

/-! ### SETW that answers a next state -/

/-- Settles O16: the next state is the write of WIDTH, which a legal operand fits. -/
theorem setwWritesTheWidthAndNothingElse : Obligations.SetwWritesTheWidthAndNothingElse := by
  intro n s hp h2 he hn
  exact ⟨s.writeWidth n, (Effect.setwLegal hp h2 he hn).exec_eq, State.writeWidth_w s hn, rfl⟩

/-- Settles O17: WMAX is below 4095 in every instance. -/
theorem oversizeWidthRaisesOperandErr : Obligations.OversizeWidthRaisesOperandErr := by
  have hmax : Config.wmax < 4095 := Nat.lt_succ_of_le Config.wmax_le
  exact ⟨fun n s hp hn => (Effect.setwTooLarge hp hn).exec_eq,
    fun s hp => (Effect.setwTooLarge hp hmax).exec_eq⟩

/-- Settles O19. -/
theorem setwOutsideIdleAndDone : Obligations.SetwOutsideIdleAndDone :=
  fun n _ => ⟨fun hp => (Effect.setwOpen hp).exec_eq, fun hp => exec_setw_of_fault n hp⟩

/-! ### A state whose WIDTH is zero or odd (log 5) -/

theorem State.widthDefined_eq_false_iff (s : State) :
    s.widthDefined = false ↔ s.w = 0 ∨ s.w % 2 = 1 := by
  rw [State.widthDefined, Bool.not_eq_false', unspecifiedWidth_iff]

/-- Settles O20: a word is refused before it is decoded, and reset does not look at WIDTH. -/
theorem undefinedWidthRefusesEveryWord : Obligations.UndefinedWidthRefusesEveryWord := by
  intro s rest hu
  refine ⟨fun w h => ?_, step_reset⟩
  rw [step_command h]
  exact State.accept_undefined w ((State.widthDefined_eq_false_iff { s with input := rest }).mpr hu)

end Sys2Proof.Machine

/-! ## The accumulator family (41_two_sum_accumulator.md): the two sums, the start commands, BIT by phase and mode -/

namespace Sys2Proof.Machine

/-! ### The accumulator step (R62, R64) -/

/-- Settles O30. -/
theorem accumulatorStepUsesTheNewFirstSum : Obligations.AccumulatorStepUsesTheNewFirstSum :=
  fun s1 s2 b _ _ =>
    ⟨rfl, Nat.le_of_lt_succ (accStep_fst_lt s1 s2 b), Nat.le_of_lt_succ (accStep_snd_lt s1 s2 b)⟩

/-- A sum of at most 508 is reduced by at most one subtraction of 255 (R64). -/
theorem mod_255_eq_ite {t : Nat} (h : t ≤ 508) : t % 255 = if 255 ≤ t then t - 255 else t := by
  split <;> omega

/-- The first reduction sees at most 255, so the adder's test for equality is enough (R64). -/
theorem mod_255_eq_ite_eq {t : Nat} (h : t ≤ 255) : t % 255 = if t = 255 then 0 else t := by
  split <;> omega

/-- Settles O31: each of the adder's two sums is within the range of its one subtraction. -/
theorem adderComputesTheModularStep : Obligations.AdderComputesTheModularStep := by
  refine ⟨fun s1 s2 b h1 h2 => ?_, rfl, rfl⟩
  have hb := Bool.toNat_le b
  have hfst : s1 + b.toNat ≤ 255 := by omega
  have hsnd : s2 + (s1 + b.toNat) % 255 ≤ 508 := by omega
  rw [Prod.ext_iff, accStep_fst, accStep_snd, mod_255_eq_ite hsnd, mod_255_eq_ite_eq hfst]
  exact ⟨rfl, rfl⟩

/-! ### The closed forms (R65): the ones of a sequence, and its ones weighted by their distance from the end -/

/-- The sum of `(n - i) * p[i]` over a sequence of length `n`, before its reduction (R65). -/
def weightedSum (p : BitSeq) : Nat := ∑ i : Fin p.length, (p.length - i.val) * (p.get i).toNat

@[simp] theorem weightedSum_nil : weightedSum [] = 0 := rfl

/-- The first symbol of a sequence weighs its length; the weights of the others do not change. -/
@[simp] theorem weightedSum_cons (b : Bool) (p : BitSeq) :
    weightedSum (b :: p) = (p.length + 1) * b.toNat + weightedSum p := by
  simp [weightedSum, Fin.sum_univ_succ]

theorem count_true_cons (b : Bool) (p : BitSeq) : (b :: p).count true = b.toNat + p.count true := by
  cases b <;> simp [Nat.add_comm]

/-- The plain sum of the symbols is the number of ones. -/
theorem sum_get_toNat (p : BitSeq) : ∑ i : Fin p.length, (p.get i).toNat = p.count true := by
  induction p with
  | nil => rfl
  | cons b p ih =>
    rw [count_true_cons, ← ih]
    exact Fin.sum_univ_succ _

/-- The closed forms of a run from any sums in range: the second sum also collects the starting first sum
once per symbol. -/
theorem accRun_closed_form (p : BitSeq) (s1 s2 : Nat) (h1 : s1 < 255) (h2 : s2 < 255) :
    accRun s1 s2 p =
      ((s1 + p.count true) % 255, (s2 + p.length * s1 + weightedSum p) % 255) := by
  induction p generalizing s1 s2 with
  | nil => simp [Nat.mod_eq_of_lt h1, Nat.mod_eq_of_lt h2]
  | cons b p ih =>
    have hfst : (accStep s1 s2 b).1 ≡ s1 + b.toNat [MOD 255] := Nat.mod_modEq _ _
    have hsnd : (accStep s1 s2 b).2 ≡ s2 + (s1 + b.toNat) [MOD 255] :=
      (Nat.mod_modEq _ _).trans (hfst.add_left s2)
    rw [accRun_cons, ih _ _ (accStep_fst_lt ..) (accStep_snd_lt ..), Prod.ext_iff]
    constructor
    · calc (accStep s1 s2 b).1 + p.count true
          ≡ s1 + b.toNat + p.count true [MOD 255] := hfst.add_right _
        _ = s1 + (b :: p).count true := by rw [count_true_cons, Nat.add_assoc]
    · calc (accStep s1 s2 b).2 + p.length * (accStep s1 s2 b).1 + weightedSum p
          ≡ s2 + (s1 + b.toNat) + p.length * (s1 + b.toNat) + weightedSum p [MOD 255] :=
            (hsnd.add (hfst.mul_left _)).add_right _
        _ = s2 + (b :: p).length * s1 + weightedSum (b :: p) := by
            rw [weightedSum_cons, List.length_cons]; ring

/-- The closed forms of a payload's sums (R65). -/
theorem accRun_zero_closed_form (p : BitSeq) :
    accRun 0 0 p = (p.count true % 255, weightedSum p % 255) := by
  simpa using accRun_closed_form p 0 0 (by decide) (by decide)

/-- Settles O32: the number of ones does not depend on their order, and the weights do. -/
theorem sumsHaveTheirClosedForms : Obligations.SumsHaveTheirClosedForms := by
  refine ⟨fun p => ?_, fun p q hpq => ?_, [true, false], [false, true], by decide, by decide⟩
  · rw [sum_get_toNat]
    exact accRun_zero_closed_form p
  · rw [accRun_zero_closed_form, accRun_zero_closed_form, hpq.count_eq]

/-! ### Consequences of the closed forms (R66) -/

/-- A 0 bit leaves a reduced first sum and adds it to the second (R66 (a)). -/
theorem accStep_false {s1 : Nat} (s2 : Nat) (h : s1 ≤ 254) :
    accStep s1 s2 false = (s1, (s2 + s1) % 255) := by
  have hmod : s1 % 255 = s1 := Nat.mod_eq_of_lt (Nat.lt_succ_of_le h)
  rw [Prod.ext_iff, accStep_fst, accStep_snd, Bool.toNat_false, Nat.add_zero, hmod]
  exact ⟨rfl, rfl⟩

/-- The weights of `n` ones are `1` to `n`. -/
theorem two_mul_weightedSum_replicate_true (n : Nat) :
    2 * weightedSum (List.replicate n true) = n * (n + 1) := by
  induction n with
  | zero => rfl
  | succ n ih =>
    rw [List.replicate_succ, weightedSum_cons, List.length_replicate, Nat.mul_add, ih, Bool.toNat_true]
    ring

/-- 255 ones weigh 128 times 255 (R66 (c)). -/
theorem accRun_replicate_255_true : accRun 0 0 (List.replicate 255 true) = (0, 0) := by
  have hw : weightedSum (List.replicate 255 true) = 128 * 255 := by
    have := two_mul_weightedSum_replicate_true 255
    omega
  rw [accRun_zero_closed_form, List.count_replicate_self, hw]

/-- Changing one bit changes the number of ones by one, up or down. -/
theorem count_true_set_not (p : BitSeq) (k : Nat) (h : k < p.length) :
    (p.set k (!p[k])).count true + p[k].toNat = p.count true + (!p[k]).toNat := by
  rw [List.count_set h]
  cases hk : p[k] with
  | false => simp
  | true =>
    have hpos : 0 < p.count true := List.count_pos_iff.mpr (hk ▸ List.getElem_mem h)
    simpa using Nat.sub_add_cancel hpos

/-- A changed bit changes the first sum (R66 (d)). -/
theorem accRun_set_not_fst_ne (p : BitSeq) (k : Nat) (h : k < p.length) :
    (accRun 0 0 (p.set k (!p[k]))).1 ≠ (accRun 0 0 p).1 := by
  have hcount := count_true_set_not p k h
  have hnot : (!p[k]).toNat + p[k].toNat = 1 := by cases p[k] <;> rfl
  rw [accRun_zero_closed_form, accRun_zero_closed_form]
  show (p.set k (!p[k])).count true % 255 ≠ p.count true % 255
  omega

/-- Settles O33: a leading 0 bit steps the sums from (0, 0) to (0, 0). -/
theorem consequencesOfTheClosedForms : Obligations.ConsequencesOfTheClosedForms :=
  ⟨fun _ s2 h1 _ => accStep_false s2 h1, fun _ => rfl, accRun_replicate_255_true,
    accRun_set_not_fst_ne⟩

/-! ### STARTC and STARTV (R67, R70) -/

/-- A start command after another has the last word: it writes all that the other wrote (R70). -/
theorem exec_start_after_start {i j : Instr} {s t : State} (hi : i = .startc ∨ i = .startv)
    (hj : j = .startc ∨ j = .startv) (h : exec i s = .next t) : exec j t = exec j s := by
  rcases hi with rfl | rfl <;> cases h <;> rcases hj with rfl | rfl <;> rfl

/-- Settles O23. -/
theorem startcOpensAComputeTransaction : Obligations.StartcOpensAComputeTransaction := by
  refine ⟨fun s => Effect.startc.exec_eq, fun s t h => ?_, rfl, by decide, fun t h => ?_⟩
  · rw [exec_start_after_start (.inl rfl) (.inl rfl) h, h]
  · cases h
    decide

/-- Settles O24. -/
theorem startvOpensAVerifyTransaction : Obligations.StartvOpensAVerifyTransaction := by
  refine ⟨fun s => Effect.startv.exec_eq, fun s t => exec_start_after_start (.inl rfl) (.inr rfl),
    fun s t => exec_start_after_start (.inr rfl) (.inl rfl), rfl, fun t h => ?_⟩
  cases h
  decide

/-! ### BIT: its frame, its phases, its two modes (R68, R69, R71, R73) -/

section

variable {b : Bool} {s t : State}

/-- What no BIT writes (R73). -/
theorem Effect.bit_frame (h : Effect (.bit b) s t) :
    t.width = s.width ∧ t.mode = s.mode ∧ t.computed = s.computed ∧ t.claimed = s.claimed ∧
      t.valid = s.valid ∧ t.werr = s.werr ∧ t.input = s.input := by
  cases h <;> exact ⟨rfl, rfl, rfl, rfl, rfl, rfl, rfl⟩

/-- In phase RUN a BIT raises nothing and leaves the transaction open (R71). -/
theorem Effect.bit_of_run (h : Effect (.bit b) s t) (hp : s.phase = .run) :
    t.phase = .run ∧ t.cause = s.cause := by
  cases h with
  | dropped | bitCompute | bitFills | bitSlides => exact ⟨hp, rfl⟩
  | bitClosed hc => simp [hp] at hc

/-- In mode COMPUTE the window is not used (R73). -/
theorem Effect.bit_of_compute (h : Effect (.bit b) s t) (hm : s.mode = .compute) :
    t.tail = s.tail ∧ t.cnt = s.cnt := by
  cases h with
  | dropped | bitClosed | bitCompute => exact ⟨rfl, rfl⟩
  | bitFills _ hv | bitSlides _ hv => simp [hm] at hv

/-- While the window fills nothing reaches the sums (R69, R73). -/
theorem Effect.bit_of_filling (h : Effect (.bit b) s t) (hm : s.mode = .verify) (hc : s.cnt < s.w) :
    t.sum1 = s.sum1 ∧ t.sum2 = s.sum2 := by
  cases h with
  | dropped | bitClosed | bitFills => exact ⟨rfl, rfl⟩
  | bitCompute _ hv => simp [hm] at hv
  | bitSlides _ _ hfull => exact absurd hc hfull

/-- Outside phase RUN a BIT is dropped or faults, and touches neither sums nor window (R71). -/
theorem Effect.bit_of_not_run (h : Effect (.bit b) s t) (hp : s.phase ≠ .run) :
    t.sum1 = s.sum1 ∧ t.sum2 = s.sum2 ∧ t.tail = s.tail ∧ t.cnt = s.cnt := by
  cases h with
  | dropped | bitClosed => exact ⟨rfl, rfl, rfl, rfl⟩
  | bitCompute hr | bitFills hr | bitSlides hr => exact absurd hr hp

end

/-- Settles O29, clause by clause. -/
theorem bitWritesOnlySumsAndWindow : Obligations.BitWritesOnlySumsAndWindow := by
  intro b s t h
  have he : Effect (.bit b) s t := exec_effect h
  exact ⟨he.bit_frame, he.bit_of_run, he.bit_of_compute, he.bit_of_filling, he.bit_of_not_run⟩

/-- Settles O28: the flags are in the frame of BIT. -/
theorem bitIsGatedByThePhase : Obligations.BitIsGatedByThePhase := by
  intro b s
  refine ⟨fun hp => (Effect.bitClosed hp).exec_eq, fun hp => ?_, fun hp => ?_, fun t h => ?_, ?_⟩
  · exact Effect.exec_eq (i := .bit b) (.dropped hp nofun nofun)
  · obtain ⟨t, he, ht⟩ := exists_effect_bit_of_run b hp
    exact ⟨t, he.exec_eq, ht⟩
  · obtain ⟨-, -, -, -, hvalid, hwerr, -⟩ := (exec_effect h).bit_frame
    exact ⟨hvalid, hwerr⟩
  · cases b <;> rfl

/-- Settles O27: while the window fills the bit is counted; once it is full the oldest bit is fed. -/
theorem verifyBitEntersTheTailWindow : Obligations.VerifyBitEntersTheTailWindow := fun _ _ hp hm _ =>
  ⟨fun hc => (Effect.bitFills hp hm hc).exec_eq,
    fun hc => (Effect.bitSlides hp hm hc.not_lt).exec_eq⟩

/-! ### A start command and the bits of a sequence (R68, R72) -/

/-- STARTC and the bits of `p` leave an open compute transaction with the sums of `p` (R68). -/
theorem run_startc_bits (p : BitSeq) {s : State} {rest : List HostEvent} (hw : s.widthDefined = true)
    (hi : s.input = present (.startc :: bitsCommands p) ++ rest) :
    runFor (p.length + 1) s = .next
      { s.openTransaction .compute with
        sum1 := BitVec.ofNat 8 (accRun 0 0 p).1
        sum2 := BitVec.ofNat 8 (accRun 0 0 p).2
        input := rest } := by
  rw [run_command p.length hi hw decode_encode_startc .startc]
  have hzero : (0#8).toNat < 255 := by decide
  exact run_bits_compute p _ rest rfl rfl hw hzero hzero rfl

/-- STARTV and the bits of `m` leave an open verify transaction that has received `m` (R72), and write
nothing else. -/
theorem run_startv_bits (m : BitSeq) {s : State} {rest : List HostEvent} (hw : s.widthDefined = true)
    (hi : s.input = present (.startv :: bitsCommands m) ++ rest) :
    ∃ t, runFor (m.length + 1) s = .next t ∧ Received m t ∧
      t = { s.openTransaction .verify with
        sum1 := t.sum1, sum2 := t.sum2, tail := t.tail, cnt := t.cnt, input := rest } := by
  rw [run_command m.length hi hw decode_encode_startv .startv]
  exact run_bits_verify m [] _ rest (received_nil _) hw rfl

/-- Settles O26: a payload's sums are reduced, so their registers keep them whole. -/
theorem computeBitGoesToTheSums : Obligations.ComputeBitGoesToTheSums := by
  refine ⟨fun b s hp hm => (Effect.bitCompute hp hm).exec_eq, fun p s rest hw hi => ?_⟩
  obtain ⟨h1, h2⟩ := accRun_lt p 0 0 (by decide) (by decide)
  exact ⟨_, run_startc_bits p hw hi, rfl, rfl, Prod.ext (toNat_sum h1) (toNat_sum h2), rfl⟩

/-- Settles O34: the registers of an open verify transaction, read at the WIDTH that STARTV keeps. -/
theorem verifyTransactionSplitsTheMessage : Obligations.VerifyTransactionSplitsTheMessage := by
  intro m s rest hw hi
  obtain ⟨t, hrun, hrec, hframe⟩ := run_startv_bits m hw hi
  have hwidth : t.width = s.width := by rw [hframe]; rfl
  have hinput : t.input = rest := by rw [hframe]
  have htw : t.w = s.w := congrArg BitVec.toNat hwidth
  obtain ⟨hphase, hmode, hcnt, htail, hsums⟩ := hrec
  rw [htw] at hcnt htail hsums
  exact ⟨t, hrun, hcnt, hsums, htail, hphase, hmode, hwidth, hinput⟩

end Sys2Proof.Machine

/-! ## The packing family (42_modular_sum_pack.md): the packed word, render and value, FIN by phase and mode -/

namespace Sys2Proof.Machine

/-! ### The packed word with a field for each sum (R76, R79) -/

section

variable {s1 s2 w : Nat}

/-- From width 16 on a half of the word holds 8 bits (R76). -/
theorem lt_two_pow_half_of_le {x : Nat} (hx : x ≤ 254) (hw : 16 ≤ w) : x < 2 ^ (w / 2) :=
  calc x < 2 ^ 8 := by omega
    _ ≤ 2 ^ (w / 2) := Nat.pow_le_pow_right (by decide) (by omega)

/-- Sums that fit a half of the word each do not overlap, and the mask removes nothing (R76). -/
theorem pack_eq_add (he : w % 2 = 0) (h1 : s1 < 2 ^ (w / 2)) (h2 : s2 < 2 ^ (w / 2)) :
    pack s1 s2 w = s2 * 2 ^ (w / 2) + s1 := by
  have hpow : 2 ^ w = 2 ^ (w / 2) * 2 ^ (w / 2) := by rw [← Nat.pow_add]; congr 1; omega
  have hfit : s2 * 2 ^ (w / 2) + s1 < 2 ^ w :=
    calc s2 * 2 ^ (w / 2) + s1 < s2 * 2 ^ (w / 2) + 2 ^ (w / 2) := Nat.add_lt_add_left h1 _
      _ = (s2 + 1) * 2 ^ (w / 2) := (Nat.succ_mul ..).symm
      _ ≤ 2 ^ (w / 2) * 2 ^ (w / 2) := Nat.mul_le_mul_right _ h2
      _ = 2 ^ w := hpow.symm
  rw [pack_eq_mod, ← Nat.shiftLeft_add_eq_or_of_lt h1, Nat.shiftLeft_eq, Nat.mod_eq_of_lt hfit]

/-- The low half gives the first sum back. -/
theorem pack_mod_half (he : w % 2 = 0) (h1 : s1 < 2 ^ (w / 2)) (h2 : s2 < 2 ^ (w / 2)) :
    pack s1 s2 w % 2 ^ (w / 2) = s1 := by
  rw [pack_eq_add he h1 h2, Nat.mul_add_mod_of_lt h1]

/-- The high half gives the second sum back. -/
theorem pack_div_half (he : w % 2 = 0) (h1 : s1 < 2 ^ (w / 2)) (h2 : s2 < 2 ^ (w / 2)) :
    pack s1 s2 w / 2 ^ (w / 2) = s2 := by
  rw [pack_eq_add he h1 h2, Nat.mul_comm, Nat.mul_add_div (Nat.two_pow_pos _), Nat.div_eq_of_lt h1,
    Nat.add_zero]

end

/-- Settles O39. -/
theorem wideWordHoldsBothSums : Obligations.WideWordHoldsBothSums := by
  constructor
  · intro s1 s2 w h1 h2 hw he
    have h1' := lt_two_pow_half_of_le h1 hw
    have h2' := lt_two_pow_half_of_le h2 hw
    refine ⟨pack_eq_add he h1' h2', (pack_mod_half he h1' h2').symm, ?_⟩
    rw [Nat.shiftRight_eq_div_pow, pack_div_half he h1' h2']
  · intro s1 s2 h1 h2
    have hsum : pack s1 s2 16 = s2 * 256 + s1 :=
      pack_eq_add rfl (lt_two_pow_half_of_le h1 le_rfl) (lt_two_pow_half_of_le h2 le_rfl)
    rw [hsum, Nat.mul_comm]

/-- Settles O42: the mask bounds the word, and from width 16 on its halves are the sums. -/
theorem packedWordFitsItsWidth : Obligations.PackedWordFitsItsWidth := by
  refine ⟨fun s1 s2 w _ _ _ _ => ⟨pack_lt_two_pow s1 s2 w, render_length_eq _ w⟩,
    fun w _ _ => pack_zero w, by decide, fun s1 s2 w h1 h2 hw he => ?_, fun s1 s2 h1 h2 => ?_⟩
  · have h1' := lt_two_pow_half_of_le h1 hw
    have h2' := lt_two_pow_half_of_le h2 hw
    rw [pack_mod_half he h1' h2', pack_div_half he h1' h2', pack_eq_add he h1' h2']
    exact ⟨Nat.add_le_add (Nat.mul_le_mul_right _ h2) h1, by omega, by omega⟩
  · have h1' : s1 < 2 ^ (16 / 2) := lt_two_pow_half_of_le h1 le_rfl
    have h2' : s2 < 2 ^ (16 / 2) := lt_two_pow_half_of_le h2 le_rfl
    have hlow : pack s1 s2 16 % 256 = s1 := pack_mod_half rfl h1' h2'
    have hhigh : pack s1 s2 16 / 256 = s2 := pack_div_half rfl h1' h2'
    omega

/-! ### The packed word whose fields overlap (R77) -/

/-- Below the upper half only the first sum is seen. -/
theorem pack_testBit_low {s1 s2 w i : Nat} (hw : i < w) (hi : i < w / 2) :
    (pack s1 s2 w).testBit i = s1.testBit i := by
  simp [pack_testBit, hw, hi.not_ge]

/-- In the upper half the second sum is ORed onto what the first sum still has there. -/
theorem pack_testBit_high {s1 s2 w i : Nat} (hw : i < w) (hi : w / 2 ≤ i) :
    (pack s1 s2 w).testBit i = (s1.testBit i || s2.testBit (i - w / 2)) := by
  simp [pack_testBit, hw, hi, Bool.or_comm]

/-- The mask leaves no bit at the width or above. -/
theorem pack_testBit_of_width_le {s1 s2 w i : Nat} (h : w ≤ i) : (pack s1 s2 w).testBit i = false := by
  simp [pack_testBit, h.not_gt]

/-- In a narrow word the top bit of the second sum is shifted past the mask. -/
theorem pack_zero_128 {w : Nat} (hw : w < 16) (he : w % 2 = 0) : pack 0 128 w = 0 := by
  have hdvd : 2 ^ w ∣ 2 ^ (7 + w / 2) := Nat.pow_dvd_pow 2 (by omega)
  calc pack 0 128 w = 2 ^ (7 + w / 2) % 2 ^ w := by
        rw [pack_eq_mod, Nat.or_zero, Nat.shiftLeft_eq, Nat.pow_add]
    _ = 0 := Nat.mod_eq_zero_of_dvd hdvd

/-- Settles O40, half by half. -/
theorem narrowWordOverlapsTheSums : Obligations.NarrowWordOverlapsTheSums := by
  refine ⟨fun s1 s2 w i _ _ _ _ _ hi => ?_, fun s1 s2 w i _ _ _ _ _ hi => pack_testBit_of_width_le hi,
    fun w _ hw he => (pack_zero_128 hw he).trans (pack_zero w).symm, by decide, by decide, by decide⟩
  split
  · exact pack_testBit_low hi ‹_›
  · exact pack_testBit_high hi (not_lt.mp ‹_›)

/-! ### render and value (R78, R85) -/

/-- Only the bits below the width are rendered. -/
theorem render_mod_two_pow (x w : Nat) : render (x % 2 ^ w) w = render x w := by
  refine List.map_congr_left fun k hk => ?_
  have hbit : w - 1 - k < w := by have := List.mem_range.mp hk; omega
  simp [Nat.testBit_mod_two_pow, hbit]

/-- The symbols of a rendering carry the bits below the width. -/
theorem value_render_eq_mod (x w : Nat) : value (render x w) = x % 2 ^ w := by
  induction w with
  | zero => simp [render, Nat.mod_one]
  | succ w ih =>
    rw [render_succ, value, ih, render_length_eq, Nat.mod_pow_succ, Nat.toNat_testBit, Nat.mul_comm,
      Nat.add_comm]

theorem value_render {x w : Nat} (h : x < 2 ^ w) : value (render x w) = x := by
  rw [value_render_eq_mod, Nat.mod_eq_of_lt h]

/-- The first symbol of a sequence stands above the value of the rest. -/
theorem value_cons_mod (b : Bool) (s : BitSeq) : value (b :: s) % 2 ^ s.length = value s :=
  Nat.mul_add_mod_of_lt (value_lt_two_pow s)

theorem render_value (s : BitSeq) : render (value s) s.length = s := by
  induction s with
  | nil => rfl
  | cons b s ih =>
    rw [List.length_cons, render_succ, value_testBit_first, ← render_mod_two_pow, value_cons_mod, ih]

/-- The first symbol weighs `2 ^ s.length`; the weights of the others do not change. -/
theorem value_eq_sum (s : BitSeq) :
    value s = ∑ k : Fin s.length, (s.get k).toNat * 2 ^ (s.length - 1 - k.val) := by
  induction s with
  | nil => rfl
  | cons b s ih => simp [value, ih, Fin.sum_univ_succ, Nat.sub_sub, Nat.add_comm]

/-- Words that fit the width are told apart by their renderings. -/
theorem render_inj {x y w : Nat} (hx : x < 2 ^ w) (hy : y < 2 ^ w) : render x w = render y w ↔ x = y := by
  constructor
  · intro h
    rw [← value_render hx, h, value_render hy]
  · rintro rfl
    rfl

/-- Settles O41. -/
theorem renderAndValueAreInverse : Obligations.RenderAndValueAreInverse := by
  refine ⟨fun x w h => ⟨render_length_eq x w, value_render h, fun k _ => ?_⟩, value_eq_sum, render_value,
    rfl, by decide⟩
  simp [render]

/-! ### FIN by phase and mode (R81 to R84) -/

/-- A command has one outcome. -/
theorem Effect.next_eq {i : Instr} {s t u : State} (he : Effect i s t) (h : exec i s = .next u) : u = t := by
  cases he.exec_eq.symm.trans h
  rfl

/-- While nothing has reached the sums the packed word is 0. -/
theorem State.packedWord_eq_zero {s : State} (h1 : s.sum1 = 0#8) (h2 : s.sum2 = 0#8) :
    s.packedWord = 0 := by
  rw [State.packedWord, h1, h2]
  exact pack_zero s.w

/-- Settles O35: only COMPUTED and PHASE are written, so the flags keep their values. -/
theorem finDeliversTheChecksum : Obligations.FinDeliversTheChecksum := by
  refine ⟨fun s hp hm _ => (Effect.finCompute hp hm).exec_eq, fun s t hinv hp hm h => ?_,
    fun s t hp hm _ h1 h2 h => ?_⟩
  · obtain rfl := (Effect.finCompute hp hm).next_eq h
    exact hinv.compute_results hm
  · obtain rfl := (Effect.finCompute hp hm).next_eq h
    exact State.packedWord_eq_zero h1 h2

/-- A verdict under the invariant: both words fit the width, and VALID says that they are equal (R82). -/
theorem fin_verdict_of_inv {s t : State} (hinv : s.Inv) (hp : s.phase = .run) (hm : s.mode = .verify)
    (hc : s.cnt = s.w) (h : exec .fin s = .next t) :
    t.werr = false ∧ t.computed < 2 ^ t.w ∧ t.claimed < 2 ^ t.w ∧
      (t.valid = true ↔ t.computed = t.claimed) := by
  obtain rfl := (Effect.finVerdict hp hm hc).next_eq h
  obtain ⟨-, -, -, hwerr⟩ := hinv.open_results (.inr hp)
  exact ⟨hwerr, pack_lt_two_pow .., hc ▸ hinv.tail_lt, hinv.comparator_iff hc⟩

/-- Settles O36. -/
theorem finDeliversTheVerdict : Obligations.FinDeliversTheVerdict := by
  refine ⟨fun s hp hm hc _ => (Effect.finVerdict hp hm hc).exec_eq, fun s t hinv hp hm hc h => ?_⟩
  obtain ⟨hwerr, -, hclaimed, hvalid⟩ := fin_verdict_of_inv hinv hp hm hc h
  exact ⟨hwerr, hclaimed, hvalid⟩

/-- Settles O43: the renderings tell apart words that fit the width, and both words of a verdict do. -/
theorem comparatorIsStringEquality : Obligations.ComparatorIsStringEquality := by
  refine ⟨fun x y w hx hy => (render_inj hx hy).symm, fun s t hinv hp hm hc h => ?_⟩
  obtain ⟨-, hcomputed, hclaimed, hvalid⟩ := fin_verdict_of_inv hinv hp hm hc h
  exact hvalid.trans (render_inj hcomputed hclaimed).symm

/-- Settles O37: the registers that FIN leaves alone are still as STARTV wrote them. -/
theorem finReportsAShortMessage : Obligations.FinReportsAShortMessage := by
  refine ⟨fun s hp hm hc _ => (Effect.finShort hp hm hc.ne).exec_eq, fun s t hinv hp hm hc h => ?_⟩
  obtain rfl := (Effect.finShort hp hm hc.ne).next_eq h
  obtain ⟨hcomputed, hclaimed, hvalid, -⟩ := hinv.open_results (.inr hp)
  have hcause : s.cause = none := hinv.cause_none (by simp [hp])
  obtain ⟨hsum1, hsum2⟩ := hinv.filling_sums hp hm hc
  exact ⟨hcomputed, hclaimed, hvalid, hcause, hsum1, hsum2⟩

/-- FIN right after STARTC delivers the packed word of two sums of 0 (R84). -/
theorem effect_fin_after_startc (s : State) :
    Effect .fin (s.openTransaction .compute) (s.openTransaction .compute).deliverChecksum :=
  .finCompute rfl rfl

/-- FIN right after STARTV finds no message bit, and a defined WIDTH is not 0 (R84). -/
theorem effect_fin_after_startv {s : State} (hw : s.widthDefined = true) :
    Effect .fin (s.openTransaction .verify) (s.openTransaction .verify).deliverWidthError := by
  obtain ⟨h2, -⟩ := s.widthDefined_iff.mp hw
  refine .finShort rfl rfl ?_
  rw [State.openTransaction_cnt, State.openTransaction_w]
  omega

/-- Settles O38, phase by phase. -/
theorem finIsGatedByThePhase : Obligations.FinIsGatedByThePhase := by
  intro s
  refine ⟨fun hp => (Effect.finClosed hp).exec_eq, fun hp => ?_, fun hp => ?_, fun t h => ?_,
    fun hw t h => ?_, rfl⟩
  · exact Effect.exec_eq (i := .fin) (.dropped hp nofun nofun)
  · obtain ⟨t, he, ht⟩ := exists_effect_fin_of_run hp
    exact ⟨t, he.exec_eq, ht⟩
  · obtain rfl := Effect.startc.next_eq h
    exact ⟨_, (effect_fin_after_startc s).exec_eq, rfl, State.packedWord_eq_zero rfl rfl⟩
  · obtain rfl := Effect.startv.next_eq h
    exact ⟨_, (effect_fin_after_startv hw).exec_eq, rfl, rfl⟩

end Sys2Proof.Machine

/-! ## The transactions family (43_transactions.md): the functions `compute` and `verify`, and what a whole
transaction delivers -/

namespace Sys2Proof.Machine

/-! ### compute (R90, R95) -/

@[simp] theorem compute_length (p : BitSeq) (w : Nat) : (compute p w).length = w := render_length_eq _ w

/-- Payloads with the same sums have the same checksum. -/
theorem compute_congr {p q : BitSeq} (h : accRun 0 0 p = accRun 0 0 q) (w : Nat) :
    compute p w = compute q w := by
  simp only [compute, accInit, h]

/-- The word of the checksum is the packed word of the sums. -/
theorem value_compute (p : BitSeq) (w : Nat) :
    value (compute p w) = pack (accRun 0 0 p).1 (accRun 0 0 p).2 w :=
  value_render (pack_lt_two_pow ..)

theorem render_value_compute (p : BitSeq) (w : Nat) : render (value (compute p w)) w = compute p w := by
  rw [value_compute]; rfl

/-- The word 0 is all zeros. -/
theorem render_zero (w : Nat) : render 0 w = List.replicate w false := by simp [render]

/-- The empty payload has the all-zero checksum at every width (R97 (d)). -/
theorem compute_nil (w : Nat) : compute [] w = List.replicate w false := by
  rw [← render_zero, ← pack_zero w]; rfl

/-- From width 16 on the first sum can be read off the checksum (R76). -/
theorem accRun_fst_eq_of_compute_eq {p q : BitSeq} {w : Nat} (hw : 16 ≤ w) (he : w % 2 = 0)
    (h : compute p w = compute q w) : (accRun 0 0 p).1 = (accRun 0 0 q).1 := by
  have hlow (r : BitSeq) : value (compute r w) % 2 ^ (w / 2) = (accRun 0 0 r).1 := by
    obtain ⟨h1, h2⟩ := accRun_lt r 0 0 (by decide) (by decide)
    rw [value_compute, pack_mod_half he (lt_two_pow_half_of_le (Nat.le_of_lt_succ h1) hw)
      (lt_two_pow_half_of_le (Nat.le_of_lt_succ h2) hw)]
  rw [← hlow, h, hlow]

/-! ### verify (R91, R98) -/

theorem verify_of_length_lt {m : BitSeq} {w : Nat} (h : m.length < w) : verify m w = .widthError := if_pos h

theorem verify_of_le_length {m : BitSeq} {w : Nat} (h : w ≤ m.length) :
    verify m w = .ok (compute (m.take (m.length - w)) w == m.drop (m.length - w))
      (compute (m.take (m.length - w)) w) (m.drop (m.length - w)) :=
  if_neg h.not_gt

/-- A message of a payload and a claimed word of `w` symbols. -/
theorem verify_append (p : BitSeq) {c : BitSeq} {w : Nat} (h : c.length = w) :
    verify (p ++ c) w = .ok (compute p w == c) (compute p w) c := by
  have hle : w ≤ (p ++ c).length := by simp [h]
  have hsub : (p ++ c).length - w = p.length := by simp [h]
  rw [verify_of_le_length hle, hsub, List.take_left, List.drop_left]

/-- A checksummed payload is a valid message (R96). -/
theorem verify_append_compute (p : BitSeq) (w : Nat) :
    verify (p ++ compute p w) w = .ok true (compute p w) (compute p w) := by
  rw [verify_append p (compute_length p w), beq_self_eq_true]

/-- A triple comes from a message that is long enough: its words are those of the two parts, and its flag
compares them. -/
theorem verify_ok {m x y : BitSeq} {w : Nat} {valid : Bool} (h : verify m w = .ok valid x y) :
    w ≤ m.length ∧ valid = (x == y) ∧ x = compute (m.take (m.length - w)) w ∧
      y = m.drop (m.length - w) := by
  rcases lt_or_ge m.length w with hlt | hle
  · rw [verify_of_length_lt hlt] at h
    cases h
  · rw [verify_of_le_length hle] at h
    obtain ⟨rfl, rfl, rfl⟩ := VerifyResult.ok.inj h
    exact ⟨hle, rfl, rfl, rfl⟩

/-- Both words of a triple have `w` symbols. -/
theorem length_of_verify_ok {m x y : BitSeq} {w : Nat} {valid : Bool} (h : verify m w = .ok valid x y) :
    x.length = w ∧ y.length = w := by
  obtain ⟨hle, -, rfl, rfl⟩ := verify_ok h
  exact ⟨compute_length .., by rw [List.length_drop]; omega⟩

/-- Settles O55: the payload is empty, so the computed word is all zeros. -/
theorem shortestMessageHasAnEmptyPayload : Obligations.ShortestMessageHasAnEmptyPayload := by
  intro m w _ _ h
  have hverify := verify_append [] h
  rwa [List.nil_append, compute_nil, Bool.beq_comm, beq_eq_decide] at hverify

/-! ### Corruptions (R97) -/

theorem set_not_ne_self {m : BitSeq} {k : Nat} (h : k < m.length) : m.set k (!m[k]) ≠ m := by
  intro heq
  have hk : (m.set k (!m[k]))[k]? = m[k]? := congrArg (·[k]?) heq
  simp [h] at hk

/-- Changing a bit of the claimed part changes the claimed part (R97 (b)). -/
theorem drop_set_not_ne {m : BitSeq} {k n : Nat} (h : k < m.length) (hn : n ≤ k) :
    (m.set k (!m[k])).drop n ≠ m.drop n := by
  intro hdrop
  apply set_not_ne_self h
  calc m.set k (!m[k])
      = (m.set k (!m[k])).take n ++ (m.set k (!m[k])).drop n := (List.take_append_drop ..).symm
    _ = m.take n ++ m.drop n := by rw [List.take_set_of_le hn, hdrop]
    _ = m := List.take_append_drop ..

/-- A changed bit of the claimed part of a valid message is detected: the computed word stays (R97 (b)). -/
theorem verify_set_not_of_claimed {m x y : BitSeq} {w k : Nat} (h : k < m.length) (hk : m.length - w ≤ k)
    (hm : verify m w = .ok true x y) :
    verify (m.set k (!m[k])) w = .ok false x ((m.set k (!m[k])).drop (m.length - w)) := by
  obtain ⟨hle, hvalid, hx, hy⟩ := verify_ok hm
  have hclaimed : x = m.drop (m.length - w) := (eq_of_beq hvalid.symm).trans hy
  have hle' : w ≤ (m.set k (!m[k])).length := by rwa [List.length_set]
  have hne : x ≠ (m.set k (!m[k])).drop (m.length - w) := hclaimed ▸ (drop_set_not_ne h hk).symm
  rw [verify_of_le_length hle', List.length_set, List.take_set_of_le hk, ← hx, beq_false_of_ne hne]

/-- The sums of `n` ones, whose weights add up to `k` (R65). -/
theorem accRun_replicate_true {n k : Nat} (h : 2 * k = n * (n + 1)) :
    accRun 0 0 (List.replicate n true) = (n % 255, k % 255) := by
  have hweight := two_mul_weightedSum_replicate_true n
  have hk : weightedSum (List.replicate n true) = k := by omega
  rw [accRun_zero_closed_form, List.count_replicate_self, hk]

/-- A leading 0 bit leaves no trace in the sums (R66 (b)). -/
theorem accRun_false_cons (p : BitSeq) : accRun 0 0 (false :: p) = accRun 0 0 p := rfl

/-- Settles O54: from width 16 on the word shows the first sum, which a changed bit changes; at width 2 two
pairs of sums pack to the same word. -/
theorem whichCorruptionsAreDetected : Obligations.WhichCorruptionsAreDetected := by
  have hfirst : accRun 0 0 (List.replicate 253 true ++ [false, true, true]) = (0, 253) := by
    rw [accRun_append, accRun_replicate_true (k := 32131) rfl]; rfl
  have hsecond : accRun 0 0 (false :: (List.replicate 252 true ++ [false, true, true])) = (254, 252) := by
    rw [accRun_false_cons, accRun_append, accRun_replicate_true (k := 31878) rfl]; rfl
  refine ⟨fun p w k h hw he heq => ?_, fun m w k h x y _ _ hk hm => ?_, ⟨hfirst, hsecond, ?_, ?_⟩,
    fun w _ _ => ⟨compute_congr (accRun_false_cons []) w,
      compute_congr accRun_replicate_255_true w, compute_nil w⟩⟩
  · exact accRun_set_not_fst_ne p k h (accRun_fst_eq_of_compute_eq hw he heq)
  · exact ⟨_, verify_set_not_of_claimed h hk hm⟩
  · simp only [compute, accInit, hfirst]; decide
  · simp only [compute, accInit, hsecond]; decide

/-! ### What FIN leaves (R95, R99) -/

/-- Settles O56: a result is a packed word, a full window or 0. -/
theorem resultsFitTheWidth : Obligations.ResultsFitTheWidth := by
  refine ⟨fun p w _ _ => compute_length p w, fun s t hinv hp h => ?_⟩
  obtain ⟨hcomputed, hclaimed, -, -⟩ := hinv.open_results (.inr hp)
  cases exec_effect h with
  | dropped hf => simp [hp] at hf
  | finClosed hc => simp [hp] at hc
  | finCompute => exact ⟨pack_lt_two_pow .., by simp [hclaimed]⟩
  | finVerdict _ hm hc =>
    obtain ⟨-, h1, h2, -⟩ := fin_verdict_of_inv hinv hp hm hc h
    exact ⟨h1, h2⟩
  | finShort => simp [hcomputed, hclaimed]

/-- Only a start command enters phase RUN (R15, R99). -/
theorem Effect.start_of_enters_run {i : Instr} {s t : State} (h : Effect i s t) (hs : s.phase ≠ .run)
    (ht : t.phase = .run) : i = .startc ∨ i = .startv := by
  cases h with
  | startc => exact .inl rfl
  | startv => exact .inr rfl
  | dropped | setwLegal | bitCompute | bitFills | bitSlides => exact absurd ht hs
  | setwOpen | setwTooLarge | bitClosed | finClosed | finCompute | finVerdict | finShort => cases ht

/-- COMPUTED changes only by a FIN in phase RUN, or to 0 by a start command (R99). -/
theorem Effect.computed_ne {i : Instr} {s t : State} (h : Effect i s t) (hne : t.computed ≠ s.computed) :
    (i = .fin ∧ s.phase = .run) ∨ ((i = .startc ∨ i = .startv) ∧ t.computed = 0) := by
  cases h with
  | startc => exact .inr ⟨.inl rfl, rfl⟩
  | startv => exact .inr ⟨.inr rfl, rfl⟩
  | finCompute hp | finVerdict hp => exact .inl ⟨rfl, hp⟩
  | dropped | setwOpen | setwTooLarge | setwLegal | bitClosed | bitCompute | bitFills | bitSlides | finClosed
  | finShort => exact absurd rfl hne

/-- Settles O57: in phase DONE the two commands fault, which leaves the results as they are. -/
theorem finishedTransactionCannotBeExtended : Obligations.FinishedTransactionCannotBeExtended := by
  refine ⟨?_, fun i s t h => (exec_effect h).start_of_enters_run,
    fun i s t h => (exec_effect h).computed_ne⟩
  rintro i s t hp h rfl
  obtain ⟨u, he, hdone⟩ := exists_effect_fin_of_run hp
  obtain rfl := he.next_eq h
  exact ⟨hdone, fun b => (Effect.bitClosed (.inr hdone)).exec_eq, (Effect.finClosed (.inr hdone)).exec_eq⟩

/-! ### The parts of a transaction -/

/-- A transaction's last act is its FIN (30_encoding.md R52). -/
theorem present_transaction (i : Instr) (p : BitSeq) (rest : List HostEvent) :
    present (i :: (bitsCommands p ++ [.fin])) ++ rest =
      present (i :: bitsCommands p) ++ .command (encode .fin) :: rest := by
  simp

/-- A run goes on with a FIN. -/
theorem run_then_fin {s t u : State} {k : Nat} {rest : List HostEvent} (h : runFor k s = .next t)
    (hi : t.input = .command (encode .fin) :: rest) (hw : t.widthDefined = true)
    (he : Effect .fin { t with input := rest } u) : runFor (k + 1) s = .next u := by
  rw [run_add k 1 h, run_command 0 hi hw decode_encode_fin he, runFor_zero]

/-- With its SETW or without, a transaction begins at the width `w` (R92, R93). -/
theorem run_to_transaction {cs tx : List Instr} {w : Nat} {s : State} {rest : List HostEvent}
    (h2 : 2 ≤ w) (he : w % 2 = 0) (hmax : w ≤ Config.wmax) (hw : s.widthDefined = true)
    (hcs : (cs = .setw w :: tx ∧ (s.phase = .idle ∨ s.phase = .done)) ∨ (cs = tx ∧ s.w = w))
    (hi : s.input = present cs ++ rest) :
    ∃ u, runFor cs.length s = runFor tx.length u ∧ u.w = w ∧ u.widthDefined = true ∧
      u.input = present tx ++ rest := by
  rcases hcs with ⟨rfl, hp⟩ | ⟨rfl, hsw⟩
  · have hwf : WellFormed (.setw w) := by
      have := Config.wmax_le
      simp only [WellFormed, Instr.wellFormed, decide_eq_true_eq]
      omega
    let u : State := State.writeWidth w { s with input := present tx ++ rest }
    have huw : u.w = w := State.writeWidth_w _ hmax
    have hrun : runFor (tx.length + 1) s = runFor tx.length u :=
      run_command tx.length hi hw (encodedCommandDecodesToItself _ hwf) (.setwLegal hp h2 he hmax)
    exact ⟨u, hrun, huw, u.widthDefined_iff.mpr (huw.symm ▸ ⟨h2, he⟩), rfl⟩
  · exact ⟨s, rfl, hsw, hw, hi⟩

/-- The packed word of a payload's sums is the word of its checksum (R90, R92). -/
theorem State.packedWord_eq_value_compute {s : State} {p : BitSeq}
    (h : (s.sum1.toNat, s.sum2.toNat) = accRun 0 0 p) : s.packedWord = value (compute p s.w) := by
  rw [value_compute, ← h]; rfl

/-! ### A compute transaction (R92) -/

/-- The state of a compute transaction that has received the payload `p`. -/
def State.openedOn (p : BitSeq) (rest : List HostEvent) (s : State) : State :=
  { s.openTransaction .compute with
    sum1 := BitVec.ofNat 8 (accRun 0 0 p).1
    sum2 := BitVec.ofNat 8 (accRun 0 0 p).2
    input := rest }

theorem State.openedOn_sums (p : BitSeq) (rest : List HostEvent) (s : State) :
    ((s.openedOn p rest).sum1.toNat, (s.openedOn p rest).sum2.toNat) = accRun 0 0 p := by
  obtain ⟨h1, h2⟩ := accRun_lt p 0 0 (by decide) (by decide)
  exact Prod.ext (toNat_sum h1) (toNat_sum h2)

/-- COMPUTED after a compute transaction. -/
theorem State.openedOn_computed (p : BitSeq) (rest : List HostEvent) (s : State) :
    (s.openedOn p rest).deliverChecksum.computed = value (compute p s.w) :=
  State.packedWord_eq_value_compute (s.openedOn_sums p rest)

/-- From any phase, whatever the engine did before, FIN packs the sums of the payload alone (R92). -/
theorem run_computeTransaction (p : BitSeq) {s : State} {rest : List HostEvent} (hw : s.widthDefined = true)
    (hi : s.input = present (computeTransaction p) ++ rest) :
    runFor (p.length + 2) s = .next (s.openedOn p rest).deliverChecksum := by
  have hbits := run_startc_bits p hw (hi.trans (present_transaction ..))
  exact run_then_fin hbits rfl hw (.finCompute rfl rfl)

/-- In phase DONE and mode COMPUTE the host reads COMPUTED (70_reset_and_hazards.md R127). -/
theorem readResult_checksum {t : State} (hp : t.phase = .done) (hm : t.mode = .compute) :
    readResult t = some (.checksum (render t.computed t.w)) := by
  simp only [readResult, hp, hm]

/-- Settles O51: the payload's sums are packed at the width in force when the transaction begins. -/
theorem computeTransactionDeliversCompute : Obligations.ComputeTransactionDeliversCompute := by
  intro p w s rest cs h2 he hmax hw hcs hi
  obtain ⟨u, hrun, rfl, huw, hui⟩ := run_to_transaction h2 he hmax hw hcs hi
  have hlen : (computeTransaction p).length = p.length + 2 := by simp [computeTransaction]
  rw [hrun, hlen, run_computeTransaction p huw hui]
  have hcomputed := u.openedOn_computed p rest
  have hrender : render (u.openedOn p rest).deliverChecksum.computed u.w = compute p u.w := by
    rw [hcomputed, render_value_compute]
  refine ⟨_, rfl, rfl, rfl, rfl, rfl, rfl, rfl, u.openedOn_sums p rest, rfl, rfl, hcomputed, hrender, ?_⟩
  rw [readResult_checksum rfl rfl]
  exact congrArg (some ∘ Reading.checksum) hrender

/-! ### A verify transaction (R93) -/

/-- Two words of the same length are told apart by their values. -/
theorem value_inj {x y : BitSeq} (h : x.length = y.length) : value x = value y ↔ x = y := by
  constructor
  · intro hv
    rw [← render_value x, hv, h, render_value]
  · rintro rfl
    rfl

/-- The result registers hold the answer of `verify` (R93). -/
def State.HoldsVerdict (t : State) : VerifyResult → Prop
  | .widthError => t.werr = true ∧ t.valid = false ∧ t.computed = 0 ∧ t.claimed = 0
  | .ok valid computed claimed =>
    t.werr = false ∧ t.valid = valid ∧ t.computed = value computed ∧ t.claimed = value claimed

/-- The verdict on a received message that is long enough (R82, R91). -/
theorem Received.deliverVerdict_holds {m : BitSeq} {s : State} (h : Received m s) (hle : s.w ≤ m.length)
    (hwerr : s.werr = false) : (s.deliverVerdict s.comparator).HoldsVerdict (verify m s.w) := by
  obtain ⟨-, -, -, htail, hsums⟩ := h
  have hlen : (m.drop (m.length - s.w)).length = s.w := by rw [List.length_drop]; omega
  have hword := State.packedWord_eq_value_compute hsums
  have hfit : s.tail % 2 ^ s.w = s.tail := by
    have hlt := value_lt_two_pow (m.drop (m.length - s.w))
    rw [hlen, ← htail] at hlt
    exact Nat.mod_eq_of_lt hlt
  have hvalid : s.comparator = (compute (m.take (m.length - s.w)) s.w == m.drop (m.length - s.w)) := by
    rw [State.comparator, hfit, hword, htail, Bool.eq_iff_iff, beq_iff_eq, beq_iff_eq,
      value_inj ((compute_length ..).trans hlen.symm)]
  rw [verify_of_le_length hle]
  exact ⟨hwerr, hvalid, hword, htail⟩

/-- FIN on a received message leaves the answer of `verify` in the result registers, which were clear, and
closes the transaction (R82, R83). -/
theorem Received.exists_effect_fin {m : BitSeq} {s : State} (h : Received m s) (hcomputed : s.computed = 0)
    (hclaimed : s.claimed = 0) (hvalid : s.valid = false) (hwerr : s.werr = false) :
    ∃ t, Effect .fin s t ∧ t.HoldsVerdict (verify m s.w) ∧ t.phase = .done ∧ t.mode = .verify ∧
      t.cause = s.cause ∧ t.width = s.width ∧ t.input = s.input := by
  rcases lt_or_ge m.length s.w with hlt | hle
  · have hcnt : s.cnt ≠ s.w := by rw [h.cnt]; omega
    refine ⟨_, .finShort h.phase h.mode hcnt, ?_, rfl, h.mode, rfl, rfl, rfl⟩
    rw [verify_of_length_lt hlt]
    exact ⟨rfl, hvalid, hcomputed, hclaimed⟩
  · have hcnt : s.cnt = s.w := by rw [h.cnt]; omega
    exact ⟨_, .finVerdict h.phase h.mode hcnt, h.deliverVerdict_holds hle hwerr, rfl, h.mode, rfl, rfl, rfl⟩

/-- From any phase, whatever the engine did before, FIN answers for the message alone (R93). -/
theorem run_verifyTransaction (m : BitSeq) {s : State} {rest : List HostEvent} (hw : s.widthDefined = true)
    (hi : s.input = present (verifyTransaction m) ++ rest) :
    ∃ t, runFor (m.length + 2) s = .next t ∧ t.HoldsVerdict (verify m s.w) ∧ t.phase = .done ∧
      t.mode = .verify ∧ t.cause = none ∧ t.w = s.w ∧ t.input = rest := by
  obtain ⟨t, hbits, hrec, hframe⟩ := run_startv_bits m hw (hi.trans (present_transaction ..))
  have hinput : t.input = .command (encode .fin) :: rest := by rw [hframe]
  have hwidth : t.width = s.width := by rw [hframe]; rfl
  have htw : t.w = s.w := congrArg BitVec.toNat hwidth
  have hdef : t.widthDefined = true := by rwa [State.widthDefined, htw]
  obtain ⟨hcause, hcomputed, hclaimed, hvalid, hwerr⟩ :
      t.cause = none ∧ t.computed = 0 ∧ t.claimed = 0 ∧ t.valid = false ∧ t.werr = false := by
    rw [hframe]
    exact ⟨rfl, rfl, rfl, rfl, rfl⟩
  have hrec' : Received m { t with input := rest } := { hrec with }
  obtain ⟨u, hfin, hverdict, hphase, hmode, hcause', hwidth', hinput'⟩ :=
    hrec'.exists_effect_fin hcomputed hclaimed hvalid hwerr
  have hverdict' : u.HoldsVerdict (verify m s.w) := htw ▸ hverdict
  exact ⟨u, run_then_fin hbits hinput hdef hfin, hverdict', hphase, hmode, hcause'.trans hcause,
    congrArg BitVec.toNat (hwidth'.trans hwidth), hinput'⟩

/-- In phase DONE and mode VERIFY the host reads the verdict in the registers (70_reset_and_hazards.md
R127). -/
theorem readResult_verdict {m : BitSeq} {t : State} (hp : t.phase = .done) (hm : t.mode = .verify)
    (h : t.HoldsVerdict (verify m t.w)) : readResult t = some (.verdict (verify m t.w)) := by
  cases hv : verify m t.w with
  | widthError =>
    rw [hv] at h
    obtain ⟨hwerr, -, -, -⟩ := h
    simp [readResult, hp, hm, hwerr]
  | ok valid computed claimed =>
    obtain ⟨hx, hy⟩ := length_of_verify_ok hv
    rw [hv] at h
    obtain ⟨hwerr, hvalid, hcomputed, hclaimed⟩ := h
    have hrx : render (value computed) t.w = computed := hx ▸ render_value computed
    have hry : render (value claimed) t.w = claimed := hy ▸ render_value claimed
    simp [readResult, hp, hm, hwerr, hvalid, hcomputed, hclaimed, hrx, hry]

/-- Settles O52: FIN answers for the message received at the width in force when the transaction begins. -/
theorem verifyTransactionDeliversVerify : Obligations.VerifyTransactionDeliversVerify := by
  intro m w s rest cs h2 he hmax hw hcs hi
  obtain ⟨u, hrun, rfl, huw, hui⟩ := run_to_transaction h2 he hmax hw hcs hi
  have hlen : (verifyTransaction m).length = m.length + 2 := by simp [verifyTransaction]
  obtain ⟨t, htrun, hverdict, hphase, hmode, hcause, htw, hinput⟩ := run_verifyTransaction m huw hui
  have hread := readResult_verdict hphase hmode (htw.symm ▸ hverdict)
  rw [htw] at hread
  refine ⟨t, by rw [hrun, hlen, htrun], hphase, hmode, hcause, htw, hinput, ?_, hread⟩
  cases hv : verify m u.w <;> rw [hv] at hverdict <;> exact hverdict

/-- Settles O53: COMPUTED renders to the checksum, so the second transaction is on a checksummed payload. -/
theorem checksummedMessageVerifies : Obligations.ChecksummedMessageVerifies := by
  refine ⟨fun p w _ _ => verify_append_compute p w, fun p w s u restC restV h2 he _ hs hu hi => ?_⟩
  have hsw : s.widthDefined = true := s.widthDefined_iff.mpr (hs ▸ ⟨h2, he⟩)
  have huw : u.widthDefined = true := u.widthDefined_iff.mpr (hu ▸ ⟨h2, he⟩)
  refine ⟨_, run_computeTransaction p hsw hi, fun hui => ?_⟩
  rw [State.openedOn_computed, hs] at hui ⊢
  rw [render_value_compute] at hui
  obtain ⟨v, hrun, hverdict, -⟩ := run_verifyTransaction _ huw hui
  rw [hu, verify_append_compute] at hverdict
  obtain ⟨hwerr, hvalid, hcomputed, hclaimed⟩ := hverdict
  rw [List.length_append, compute_length] at hrun
  exact ⟨v, hrun, hvalid, hwerr, hclaimed.trans hcomputed.symm, hcomputed⟩

end Sys2Proof.Machine

/-! ## The exception family (60_exceptions.md): which word raises which fault, and how phase FAULT is left -/

namespace Sys2Proof.Machine

/-! ### Raising a fault (R101 to R103, R108, R109) -/

/-- The words that raise each fault, by what they decode to and the phase they are accepted in (R101, R102,
R103); it is used outside phase FAULT only, where nothing is raised (R110). -/
def State.Raises (s : State) (d : Decoded) : FaultCode → Prop
  | .illegalCmd => ∃ why, d = .illFormed why
  | .seqErr =>
    (∃ n, d = .command (.setw n) ∧ s.phase = .run) ∨
    (∃ b, d = .command (.bit b) ∧ (s.phase = .idle ∨ s.phase = .done)) ∨
    (d = .command .fin ∧ (s.phase = .idle ∨ s.phase = .done))
  | .operandErr =>
    ∃ n, d = .command (.setw n) ∧ Config.wmax < n ∧ (s.phase = .idle ∨ s.phase = .done)

section

variable {s t : State} {w : Word}

/-- A word that raises a fault has no other effect (R109). -/
theorem State.Raises.accept_eq {c : FaultCode} (h : s.Raises (decode w) c) (hw : s.widthDefined = true)
    (hp : s.phase ≠ .fault) : s.accept w = .next (s.raiseFault c) := by
  cases c with
  | illegalCmd =>
    obtain ⟨why, hd⟩ := h
    rw [State.accept_illFormed hw hd, State.receiveIllFormed_other hp]
  | seqErr =>
    obtain ⟨n, hd, hr⟩ | ⟨b, hd, hc⟩ | ⟨hd, hc⟩ := h <;> rw [State.accept_command hw hd]
    · exact (Effect.setwOpen hr).exec_eq
    · exact (Effect.bitClosed hc).exec_eq
    · exact (Effect.finClosed hc).exec_eq
  | operandErr =>
    obtain ⟨n, hd, hn, hc⟩ := h
    rw [State.accept_command hw hd, (Effect.setwTooLarge hc hn).exec_eq]

/-- Outside phase FAULT a command raises a fault, or it neither enters phase FAULT nor writes a cause. -/
theorem Effect.raises_or_no_fault {i : Instr} (h : Effect i s t) (hp : s.phase ≠ .fault) :
    (∃ c, s.Raises (.command i) c ∧ t = s.raiseFault c) ∨
      (t.phase ≠ .fault ∧ (s.cause = none → t.cause = none)) := by
  cases h with
  | dropped hf => exact absurd hf hp
  | setwOpen hr => exact .inl ⟨.seqErr, .inl ⟨_, rfl, hr⟩, rfl⟩
  | bitClosed hc => exact .inl ⟨.seqErr, .inr (.inl ⟨_, rfl, hc⟩), rfl⟩
  | finClosed hc => exact .inl ⟨.seqErr, .inr (.inr ⟨rfl, hc⟩), rfl⟩
  | setwTooLarge hc hn => exact .inl ⟨.operandErr, ⟨_, rfl, hn, hc⟩, rfl⟩
  | setwLegal | bitCompute | bitFills | bitSlides => exact .inr ⟨hp, id⟩
  | startc | startv => exact .inr ⟨nofun, fun _ => rfl⟩
  | finCompute | finVerdict | finShort => exact .inr ⟨nofun, id⟩

/-- The same of every accepted word. -/
theorem State.accept_raises_or_no_fault (h : s.accept w = .next t) (hp : s.phase ≠ .fault) :
    (∃ c, s.Raises (decode w) c ∧ t = s.raiseFault c) ∨
      (t.phase ≠ .fault ∧ (s.cause = none → t.cause = none)) := by
  obtain ⟨-, ⟨i, hd, he⟩ | ⟨why, hd, ⟨hf, -⟩ | ⟨-, rfl⟩⟩⟩ := State.accept_next h
  · rw [hd]
    exact he.raises_or_no_fault hp
  · exact absurd hf hp
  · exact .inl ⟨.illegalCmd, ⟨why, hd⟩, rfl⟩

/-- CAUSE names the fault that the word raises, and no other. -/
theorem State.accept_cause_eq_iff (h : s.accept w = .next t) (hp : s.phase ≠ .fault) (hs : s.cause = none)
    (c : FaultCode) : t.cause = some c ↔ s.Raises (decode w) c := by
  obtain ⟨hw, -⟩ := State.accept_next h
  constructor
  · intro ht
    obtain ⟨c', hraises, rfl⟩ | ⟨-, hnone⟩ := State.accept_raises_or_no_fault h hp
    · cases ht
      exact hraises
    · cases (hnone hs).symm.trans ht
  · intro hraises
    cases h.symm.trans (hraises.accept_eq hw hp)
    rfl

end

/-- Settles O44: phase FAULT is entered only by raising a fault. -/
theorem faultEntryWritesCauseAndPhase : Obligations.FaultEntryWritesCauseAndPhase := by
  intro s t w hp h ht
  obtain ⟨c, -, rfl⟩ | ⟨hno, -⟩ := State.accept_raises_or_no_fault h hp
  · exact ⟨c, rfl⟩
  · exact absurd ht hno

/-- Settles O45: a word raises at most one fault, which is its whole effect. -/
theorem eachFaultHasItsCauses : Obligations.EachFaultHasItsCauses := by
  intro s t w hp hs h
  have hcause := State.accept_cause_eq_iff h hp hs
  refine ⟨hcause .illegalCmd, hcause .seqErr, hcause .operandErr, fun ht => ?_⟩
  obtain ⟨c, -, rfl⟩ | ⟨-, hnone⟩ := State.accept_raises_or_no_fault h hp
  · rfl
  · exact absurd (hnone hs) ht

/-! ### Phase FAULT (R110, R111, R112) -/

section

variable {s t : State} {w : Word}

/-- In phase FAULT a word that is no start command is dropped (R110). -/
theorem State.accept_of_fault (hw : s.widthDefined = true) (hp : s.phase = .fault)
    (hc : decode w ≠ .command .startc) (hv : decode w ≠ .command .startv) : s.accept w = .next s := by
  cases hd : decode w with
  | illFormed why => rw [State.accept_illFormed hw hd, State.receiveIllFormed_fault hp]
  | command i =>
    have hi : i ≠ .startc ∧ i ≠ .startv := by constructor <;> rintro rfl <;> contradiction
    rw [State.accept_command hw hd, Effect.exec_eq (.dropped hp hi.1 hi.2)]

/-- The same with the start commands as words. -/
theorem State.accept_word_of_fault (hw : s.widthDefined = true) (hp : s.phase = .fault)
    (hc : w ≠ 0x2000#16) (hv : w ≠ 0x2001#16) : s.accept w = .next s := by
  refine State.accept_of_fault hw hp (fun hd => hc ?_) (fun hd => hv ?_) <;>
  · obtain ⟨-, hword⟩ := decodedWordIsItsCommandsEncoding _ _ hd
    exact hword.symm

/-- A word that leaves phase FAULT is a start command and clears CAUSE (R111). -/
theorem State.accept_leaves_fault (h : s.accept w = .next t) (hp : s.phase = .fault)
    (ht : t.phase ≠ .fault) : (w = 0x2000#16 ∨ w = 0x2001#16) ∧ ∃ m, t = s.openTransaction m := by
  obtain ⟨hw, -⟩ := State.accept_next h
  have hstartc : s.accept 0x2000#16 = .next (s.openTransaction .compute) :=
    State.accept_command hw (i := .startc) (by decide)
  have hstartv : s.accept 0x2001#16 = .next (s.openTransaction .verify) :=
    State.accept_command hw (i := .startv) (by decide)
  by_cases hc : w = 0x2000#16
  · cases h.symm.trans (hc ▸ hstartc)
    exact ⟨.inl hc, .compute, rfl⟩
  by_cases hv : w = 0x2001#16
  · cases h.symm.trans (hv ▸ hstartv)
    exact ⟨.inr hv, .verify, rfl⟩
  · cases h.symm.trans (State.accept_word_of_fault hw hp hc hv)
    exact absurd hp ht

end

/-- Settles O46. -/
theorem faultPhaseDropsAllButStart : Obligations.FaultPhaseDropsAllButStart :=
  fun _ _ hw hp hc hv => State.accept_word_of_fault hw hp hc hv

/-- Settles O47: waiting does not leave the phase, a word does if it is a start command, and reset does. -/
theorem faultIsLeftByStartOrReset : Obligations.FaultIsLeftByStartOrReset := by
  intro s t hp h ht
  obtain ⟨-, rfl⟩ | ⟨w, rest, hi, ha⟩ | ⟨rest, hi, rfl⟩ := step_next h
  · exact absurd hp ht
  · obtain ⟨hw, m, rfl⟩ := State.accept_leaves_fault ha hp ht
    refine ⟨rfl, rest, rfl, ?_⟩
    rcases hw with rfl | rfl
    · exact .inl hi
    · exact .inr (.inl hi)
  · exact ⟨rfl, rest, rfl, .inr (.inr hi)⟩

/-- A run of words without a start command leaves phase FAULT as it is (R112). -/
theorem run_words_of_fault (ws : List Word) {s : State} {rest : List HostEvent}
    (hw : s.widthDefined = true) (hp : s.phase = .fault)
    (hws : ∀ w ∈ ws, w ≠ 0x2000#16 ∧ w ≠ 0x2001#16) (hi : s.input = ws.map .command ++ rest) :
    runFor ws.length s = .next { s with input := rest } := by
  induction ws generalizing s with
  | nil =>
    have hrest : s.input = rest := hi
    rw [← hrest]
    rfl
  | cons w ws ih =>
    obtain ⟨⟨hc, hv⟩, hrest⟩ := List.forall_mem_cons.mp hws
    have hstep : step s = .next { s with input := ws.map .command ++ rest } := by
      rw [step_command hi]
      exact State.accept_word_of_fault (s := { s with input := ws.map .command ++ rest }) hw hp hc hv
    rw [List.length_cons, run_succ _ hstep]
    exact ih (s := { s with input := ws.map .command ++ rest }) hw hp hrest rfl

/-- Settles O48: a start command writes CAUSE, and by induction the dropped words write nothing. -/
theorem firstFaultIsKept : Obligations.FirstFaultIsKept := by
  refine ⟨?_, fun ws s rest hw hp hws hi => run_words_of_fault ws hw hp hws hi⟩
  rintro i s t (rfl | rfl) h <;> cases h <;> rfl

/-! ### The order of the tests (R108) -/

/-- Settles O49: one lemma for the words dropped, one for the faults, one for the refusal. -/
theorem checksAreMadeInOrder : Obligations.ChecksAreMadeInOrder := by
  intro s w hw
  have hfault : ∀ c, s.Raises (decode w) c → s.phase ≠ .fault →
      s.accept w = .next { s with cause := some c, phase := .fault } := fun _ h hp => h.accept_eq hw hp
  have hopen : s.phase = .idle ∨ s.phase = .done → s.phase ≠ .fault := by
    rintro (hp | hp) <;> simp [hp]
  refine ⟨State.accept_of_fault hw, fun hp why hd => hfault .illegalCmd ⟨why, hd⟩ hp,
    fun n hd hp => hfault .seqErr (.inl ⟨n, hd, hp⟩) (by simp [hp]), ?_,
    fun n hd hp hn => hfault .operandErr ⟨n, hd, hn, hp⟩ (hopen hp),
    fun n hd hp hn hu => ?_, fun i hd => State.accept_command hw hd⟩
  · rintro i hd (⟨b, rfl⟩ | rfl) hp
    · exact hfault .seqErr (.inr (.inl ⟨b, hd, hp⟩)) (hopen hp)
    · exact hfault .seqErr (.inr (.inr ⟨hd, hp⟩)) (hopen hp)
  · rw [State.accept_command hw hd]
    exact exec_setw_unspecified hp hn hu

end Sys2Proof.Machine

/-! ## The reset and hazards family (70_reset_and_hazards.md): reset in every state, and the host that keeps R125 -/

namespace Sys2Proof.Machine

/-- Settles O9. -/
theorem resetIsEnabledInEveryState : Obligations.ResetIsEnabledInEveryState :=
  fun _ _ h => step_reset h

/-! ### The acts of a host that keeps R125 -/

/-- The invariant's WIDTH is one that the spec gives a behaviour (10_state.md R14). -/
theorem State.Inv.widthDefined {s : State} (h : s.Inv) : s.widthDefined = true :=
  s.widthDefined_iff.mpr ⟨h.width_min, h.width_even⟩

/-- The host's further acts stay (10_state.md R25). -/
theorem State.accept_input {s t : State} {w : Word} (h : s.accept w = .next t) : t.input = s.input := by
  obtain ⟨-, ⟨i, -, he⟩ | ⟨why, -, ⟨-, rfl⟩ | ⟨-, rfl⟩⟩⟩ := State.accept_next h
  · exact he.input_eq
  · rfl
  · rfl

/-- R125 rules out the operands of R57. -/
theorem dutifulWord_setw {w : Word} {n : Nat} (h : dutifulWord w = true) (hd : decode w = .command (.setw n)) :
    ¬ (n = 0 ∨ n % 2 = 1) := by
  rw [← unspecifiedWidth_iff]
  simpa [dutifulWord, hd] using h

/-- A word of such a host is never the refused SETW. -/
theorem State.exists_accept_next_of_dutiful {s : State} {w : Word} (hw : s.widthDefined = true)
    (h : dutifulWord w = true) : ∃ t, s.accept w = .next t := by
  rw [onlyTheUnspecifiedWidthIsRefused s w hw]
  rintro ⟨n, hd, hu, -, -⟩
  exact dutifulWord_setw h hd hu

/-- One act of such a host is executed. -/
theorem exists_step_next_of_dutiful {s : State} {e : HostEvent} {rest : List HostEvent} (hs : s.Inv)
    (hi : s.input = e :: rest) (he : dutifulEvent e = true) : ∃ t, step s = .next t ∧ t.input = rest := by
  cases e with
  | command w =>
    obtain ⟨t, ht⟩ := State.exists_accept_next_of_dutiful (hs.with_input rest).widthDefined he
    exact ⟨t, (step_command hi).trans ht, State.accept_input ht⟩
  | reset => exact ⟨_, step_reset hi, rfl⟩

/-- All acts of such a host are executed, by induction over them: each step keeps the invariant. -/
theorem run_of_dutiful (es : List HostEvent) {s : State} (hs : s.Inv) (hi : s.input = es)
    (hes : es.all dutifulEvent = true) : ∃ t, runFor es.length s = .next t ∧ t.input = [] ∧ t.Inv := by
  induction es generalizing s with
  | nil => exact ⟨s, rfl, hi, hs⟩
  | cons e rest ih =>
    obtain ⟨he, hrest⟩ := Bool.and_eq_true_iff.mp hes
    obtain ⟨u, hu, hui⟩ := exists_step_next_of_dutiful hs hi he
    rw [List.length_cons, run_succ _ hu]
    exact ih (everyStepKeepsTheInvariant s u hs hu) hui hrest

/-- Settles O13. -/
theorem dutifulHostActsAreAllExecuted : Obligations.DutifulHostActsAreAllExecuted :=
  fun s hs hes => run_of_dutiful s.input hs rfl hes

end Sys2Proof.Machine
